-- ==== Sys2Proof/Word.lean ====
section
/-! DEFINITION. The block's word types and their plainest arithmetic (spec/00_scope.md R14 to R16). -/

namespace Sys2Proof

/-- A byte: bit 7 most significant, read unsigned unless a rule says otherwise (R14). -/
abbrev Byte := BitVec 8

/-- A frame of 14 bytes, `F[0]` first (R15): raw (`R`) or plaintext (`P`). -/
abbrev Frame := Vector Byte 14

/-- A request word `REQ[118:0]` (30_encoding.md R42). -/
abbrev ReqWord := BitVec 119

/-- A response word `RSP[212:0]` (30_encoding.md R47). -/
abbrev RspWord := BitVec 213

/-- The number of bytes of a frame, and the only operand length an operation accepts (R13, R45). -/
abbrev frameLength : Nat := 14

/-- The frame whose 14 bytes are all zero: the fill of an invalid `plain` field (30_encoding.md R49, R53). -/
def Frame.zero : Frame := Vector.replicate 14 0#8

/-- `a +8 b` (R16): the carry out of bit 7 is discarded. -/
def add8 (a b : Byte) : Byte := a + b

/-- `a -8 b` (R16). -/
def sub8 (a b : Byte) : Byte := a - b

end Sys2Proof
end

