-- ==== Sys2Proof/Config.lean ====
section
/-! DEFINITION. What one device fixes: the constant tables and the reading parameters of
spec/00_scope.md R6 to R11, their well-formedness checks, and the device's own values, which the spec
leaves OPEN and the model therefore leaves free (log entries 1 and 2). -/

namespace Sys2Proof

/-- The seven units the decoder tells apart, in the spec's order (30_encoding.md R51). -/
inductive MeterUnit where
  | hFE | v | ohm | f | hz | c | a
deriving DecidableEq, Repr

/-- The seven units as a list, in the order of R51. -/
def MeterUnit.all : List MeterUnit := [.hFE, .v, .ohm, .f, .hz, .c, .a]

/-- The four exponents that a scale nibble can select, -6, -3, 3 and 6 (R8). -/
inductive ScaleKey where
  | micro | milli | kilo | mega
deriving DecidableEq, Repr

/-- The four scale keys in the order in which R81 tries them. -/
def ScaleKey.all : List ScaleKey := [.micro, .milli, .kilo, .mega]

/-- The exponent a scale key stands for (R8, 30_encoding.md R52). -/
def ScaleKey.exponent : ScaleKey → Int
  | .micro => -6
  | .milli => -3
  | .kilo => 3
  | .mega => 6

/-- Parameter `SCALE_NIB` (R8): one nibble for each non-zero exponent. -/
structure ScaleNibbles where
  micro : BitVec 4
  milli : BitVec 4
  kilo : BitVec 4
  mega : BitVec 4
deriving DecidableEq, Repr

/-- `SCALE_NIB[e]`. -/
def ScaleNibbles.get (n : ScaleNibbles) : ScaleKey → BitVec 4
  | .micro => n.micro
  | .milli => n.milli
  | .kilo => n.kilo
  | .mega => n.mega

/-- Parameter `UNIT_BYTE` (R9) but for V, whose byte the source fixes. -/
structure UnitBytes where
  hFE : Byte
  ohm : Byte
  f : Byte
  hz : Byte
  c : Byte
  a : Byte
deriving DecidableEq, Repr

/-- `UNIT_BYTE[u]`; `UNIT_BYTE[V] = 0x80` is hard-wired (R9, R13). -/
def UnitBytes.get (b : UnitBytes) : MeterUnit → Byte
  | .hFE => b.hFE
  | .v => 0x80#8
  | .ohm => b.ohm
  | .f => b.f
  | .hz => b.hz
  | .c => b.c
  | .a => b.a

/-- The constant tables embedded in one device (10_state.md R22) whose values are open. -/
structure Tables where
  /-- `PERM[p]`: the raw position that plaintext position p is sourced from (R6). -/
  perm : Vector (Fin 14) 14
  /-- `OFF[p]`: the additive offset of plaintext position p (R7). -/
  off : Vector Byte 14
  scaleNib : ScaleNibbles
  unitByte : UnitBytes
deriving DecidableEq, Repr

/-- R6 (a): `PERM` is a bijection of {0..13}: no raw position is named twice. -/
abbrev Tables.PermBijective (t : Tables) : Prop := t.perm.toList.Nodup

/-- R6 (b): `PERM` is not a rotation. -/
abbrev Tables.PermNotRotation (t : Tables) : Prop :=
  ¬ ∃ k : Fin 14, ∀ p : Fin 14, t.perm[p] = p + k

/-- R7: the 14 offsets are pairwise distinct. -/
abbrev Tables.OffDistinct (t : Tables) : Prop := t.off.toList.Nodup

/-- R8 (a): the four scale nibbles are pairwise distinct. -/
abbrev Tables.ScaleDistinct (t : Tables) : Prop := (ScaleKey.all.map t.scaleNib.get).Nodup

/-- R8 (b): no scale nibble is 0x0. -/
abbrev Tables.ScaleNonzero (t : Tables) : Prop := 0#4 ∉ ScaleKey.all.map t.scaleNib.get

/-- R9: the seven unit bytes are pairwise distinct. -/
abbrev Tables.UnitDistinct (t : Tables) : Prop := (MeterUnit.all.map t.unitByte.get).Nodup

/-- The constraints of R6 to R9 together: what a device's tables satisfy. -/
abbrev Tables.WellFormed (t : Tables) : Prop :=
  t.PermBijective ∧ t.PermNotRotation ∧ t.OffDistinct ∧ t.ScaleDistinct ∧ t.ScaleNonzero ∧
    t.UnitDistinct

/-- Parameter `AUX_EXT` (R10): how the integer value of the auxiliary byte is read. -/
inductive AuxExt where
  | sext8 | zext8
deriving DecidableEq, Repr, Inhabited

/-- Parameter `SIGN_OTHER` (R11): what the sign step does with a byte 0 that is no sentinel. -/
inductive SignOther where
  | unspecified | asPositive
deriving DecidableEq, Repr

/-- Everything one block instance has fixed (R6 to R11). `signOther` defaults as R11 says. -/
structure Config where
  tables : Tables
  auxExt : AuxExt
  signOther : SignOther := .unspecified
deriving DecidableEq, Repr

/-- Some tables that satisfy the constraints. They show only that well-formed tables exist (an opaque
constant's type must be inhabited); no definition of the machine computes with them and they are no
device's tables (92_eei_decisions.md D26). -/
def Tables.existence : Tables where
  perm := #v[3, 8, 13, 4, 9, 0, 5, 10, 1, 6, 11, 2, 7, 12]
  off := #v[0x05, 0x16, 0x27, 0x38, 0x49, 0x5A, 0x6B, 0x7C, 0x8D, 0x9E, 0xAF, 0xC0, 0xD1, 0xE2]
  scaleNib := ⟨1, 2, 3, 4⟩
  unitByte := ⟨1, 2, 3, 4, 5, 6⟩

theorem Tables.existence_wellFormed : Tables.existence.WellFormed := by decide

/-- Tables with the evidence that they satisfy R6 to R9. -/
structure WellFormedTables where
  tables : Tables := Tables.existence
  wellFormed : tables.WellFormed := by exact Tables.existence_wellFormed
deriving Inhabited

/-- The device's own tables: a FREE VALUE, of which nothing is known but R6 to R9 (the spec leaves the
values OPEN, 92_eei_decisions.md D14 to D17; log entry 1). -/
opaque Config.deviceTables : WellFormedTables

/-- The device's own `AUX_EXT`: a FREE VALUE (OPEN, 92_eei_decisions.md D13; log entry 2). -/
opaque Config.deviceAuxExt : AuxExt

/-- The device as reset leaves it: its own tables and auxiliary reading, and `SIGN_OTHER` at the
default of R11 (log entry 3). -/
def Config.device : Config where
  tables := Config.deviceTables.tables
  auxExt := Config.deviceAuxExt

end Sys2Proof
end

