-- ==== Sys2Proof/Syntax.lean ====
section
/-! DEFINITION. The block's instruction set: the three operations of spec/30_encoding.md R43, one
constructor per row of spec/opcode_table.json. -/

namespace Sys2Proof

/-- A request as the block reads it (10_state.md R24): the operation, the operand length in bytes and
the 14 data lanes. The lanes are kept whatever the length says; R46 is a law of the meanings. -/
inductive Instr where
  /-- `op = 0b00` (40_descramble.md R66). -/
  | descramble (len : Nat) (data : Frame)
  /-- `op = 0b01` (41_decode.md R71). -/
  | decode (len : Nat) (data : Frame)
  /-- `op = 0b10` (41_decode.md R86). -/
  | descrambleDecode (len : Nat) (data : Frame)
deriving DecidableEq, Repr

/-- The operand length a request carries. -/
def Instr.len : Instr → Nat
  | .descramble len _ => len
  | .decode len _ => len
  | .descrambleDecode len _ => len

/-- The 14 data lanes a request carries. -/
def Instr.data : Instr → Frame
  | .descramble _ data => data
  | .decode _ data => data
  | .descrambleDecode _ data => data

end Sys2Proof
end

