-- ==== Sys2Proof/WellFormed.lean ====
section
/-! DEFINITION. Well-formedness of requests and of a block's configuration. -/

namespace Sys2Proof

/-- A request is well-formed when its length fits the five bits of the `len` field, 0..31
(30_encoding.md R42, R45). Every operation code and every value of every data lane is legal. -/
abbrev Instr.WellFormed (i : Instr) : Prop := i.len ≤ 31

/-- A configuration is well-formed when its tables satisfy R6 to R9; every value of `AUX_EXT` and
`SIGN_OTHER` is legal (R10, R11). -/
abbrev Config.WellFormed (c : Config) : Prop := c.tables.WellFormed

end Sys2Proof
end

