-- ==== Sys2Proof/Decode.lean ====
section
/-! DEFINITION. The request encoding of spec/30_encoding.md sections 1 and 5: the decoder, total on
every word and rejecting the reserved operation by name, then the encoder. -/

namespace Sys2Proof

/-! ### Byte lanes (20_memory.md R32) -/

/-- The 112-bit field that carries a frame: byte i in lane i, bits `[8i+7 : 8i]` (R32). -/
def frameToBits (f : Frame) : BitVec 112 :=
  f[13] ++ f[12] ++ f[11] ++ f[10] ++ f[9] ++ f[8] ++ f[7] ++ f[6] ++ f[5] ++ f[4] ++ f[3] ++ f[2] ++
    f[1] ++ f[0]

/-- The frame that a 112-bit field carries (R32). -/
def bitsToFrame (b : BitVec 112) : Frame := Vector.ofFn fun i => b.extractLsb' (8 * i.val) 8

/-! ### Request fields (30_encoding.md R42) -/

/-- `REQ[1:0]`. -/
def reqOp (w : ReqWord) : BitVec 2 := w.extractLsb' 0 2

/-- `REQ[6:2]`, the operand length in bytes. -/
def reqLen (w : ReqWord) : Nat := (w.extractLsb' 2 5).toNat

/-- `REQ[118:7]`, the operand bytes. -/
def reqData (w : ReqWord) : Frame := bitsToFrame (w.extractLsb' 7 112)

/-- A request word put together from its fields (R42). -/
def packRequest (op : BitVec 2) (len : Nat) (data : Frame) : ReqWord :=
  frameToBits data ++ BitVec.ofNat 5 len ++ op

/-! ### The decoder -/

/-- What a request word says. -/
inductive Decoded where
  /-- One of the three operations. -/
  | instr (i : Instr)
  /-- `op = 0b11`, the reserved encoding: no operation, no other field is read (R44). -/
  | reservedOp
deriving DecidableEq, Repr

/-- The operation selector (R43). Every word has exactly one reading: the operation is read from `op`
alone and the length from `len` alone (R60). -/
def decode (w : ReqWord) : Decoded :=
  if reqOp w = 0b00#2 then .instr (.descramble (reqLen w) (reqData w))
  else if reqOp w = 0b01#2 then .instr (.decode (reqLen w) (reqData w))
  else if reqOp w = 0b10#2 then .instr (.descrambleDecode (reqLen w) (reqData w))
  else .reservedOp

/-- The operation code of a request (R43). -/
def Instr.opcode : Instr → BitVec 2
  | .descramble _ _ => 0b00#2
  | .decode _ _ => 0b01#2
  | .descrambleDecode _ _ => 0b10#2

/-- The request word of an instruction (R42, R43). -/
def encode (i : Instr) : ReqWord := packRequest i.opcode i.len i.data

/-- A request word of the reserved operation (30_encoding.md R59: `OP3` has every other bit zero). -/
def op3Word : ReqWord := packRequest 0b11#2 0 Frame.zero

/-! ### The opcode table's numbering -/

/-- The request word whose low `nbits` bits are those of `w` and whose other bits are zero. -/
def tableWord (nbits w : Nat) : ReqWord := BitVec.ofNat 119 (w % 2 ^ nbits)

/-- What the decoder reads from a word numbered as spec/opcode_table.json numbers it: bit 0 of the
word is `REQ[0]`. -/
def decodeTableWord (nbits w : Nat) : Option Instr :=
  match decode (tableWord nbits w) with
  | .instr i => some i
  | .reservedOp => none

end Sys2Proof
end

