-- ==== Sys2Proof/Machine/Binary64.lean ====
section
/-! DEFINITION. The IEEE 754 binary64 primitives of spec/00_scope.md R12 and R16: `f64`, `fdiv`,
`fneg` and `+inf`, on 64-bit patterns (1 sign bit, 11 exponent bits, 52 fraction bits;
93_implementation_defined.md G1). -/

namespace Sys2Proof.Machine

/-- A binary64 bit pattern. -/
abbrev Binary64 := BitVec 64

/-- `+inf`: every exponent bit set, the fraction zero. -/
def posInf : Binary64 := 0x7FF0000000000000#64

/-- `fneg`: the sign bit flipped and nothing else (R16). -/
def fneg (x : Binary64) : Binary64 := x ^^^ 0x8000000000000000#64

/-- The biased exponent field of a pattern. -/
def exponentField (x : Binary64) : Nat := (x.extractLsb' 52 11).toNat

/-- The fraction field of a pattern. -/
def fractionField (x : Binary64) : Nat := (x.extractLsb' 0 52).toNat

/-- A pattern stands for a finite number when its exponent field is not all ones. -/
def isFinite (x : Binary64) : Bool := exponentField x != 2047

/-- The significand of a finite pattern, the hidden bit included where the number is normal. -/
def significand (x : Binary64) : Nat :=
  if exponentField x = 0 then fractionField x else fractionField x + 2 ^ 52

/-- The absolute value of a finite pattern times 2^1075, a natural number: binary64's finite numbers
are the multiples `significand * 2 ^ (max 1 exponentField - 1075)`. -/
def scaledMagnitude (x : Binary64) : Nat := significand x * 2 ^ max 1 (exponentField x)

/-- The scaled magnitude of the number 1: the unit in which `scaledMagnitude` counts. -/
def scaledOne : Nat := 2 ^ 1075

/-- The integer exponent of 2 of the last place of the binary64 number nearest to `n / d`: 52 below the
exponent of the leading bit of `n / d`, and never below that of the subnormal numbers. -/
def lastPlace (n d : Nat) : Int :=
  let l : Int := (Nat.log2 n : Int) - (Nat.log2 d : Int)
  let lead : Int := if n * 2 ^ (-l).toNat < d * 2 ^ l.toNat then l - 1 else l
  max (lead - 52) (-1074)

/-- The quotient `num / den` rounded to the nearest integer, ties to even. -/
def roundQuotient (num den : Nat) : Nat :=
  let q := num / den
  let r := num % den
  if den < 2 * r ∨ (2 * r = den ∧ q % 2 = 1) then q + 1 else q

/-- The non-negative binary64 number nearest to the rational `n / d` (`d` positive), ties to even,
`+inf` past the largest finite number. A rounded significand of 2^53 carries into the exponent field,
which is the pattern of the next power of two. -/
def nearest (n d : Nat) : Binary64 :=
  if n = 0 then 0#64
  else
    let e := lastPlace n d
    let q := roundQuotient (n * 2 ^ (-e).toNat) (d * 2 ^ e.toNat)
    BitVec.ofNat 64 (min ((e + 1074).toNat * 2 ^ 52 + q) posInf.toNat)

/-- `f64(n)`: the binary64 value of a natural number (R16). -/
def f64 (n : Nat) : Binary64 := nearest n 1

/-- `fdiv(x, y)` (R16): the quotient of two finite numbers, `y` not zero, rounded to nearest, ties to
even; its sign is negative when one operand's is. The block divides no other numbers (41_decode.md
R78), and outside that domain this function stands for nothing (log entry 9). -/
def fdiv (x y : Binary64) : Binary64 :=
  let m := nearest (scaledMagnitude x) (scaledMagnitude y)
  if x.msb = y.msb then m else fneg m

end Sys2Proof.Machine
end

