-- ==== Sys2Proof/Machine/State.lean ====
section
/-! DEFINITION. The state of one block instance: its fixed configuration and its two interface ports
(spec/10_state.md R18 to R25). The block keeps nothing else between requests (R18, R26). -/

namespace Sys2Proof.Machine

/-- The outcome of one request (30_encoding.md R48). Code 6 is reserved and never produced, so it has
no name here. -/
inductive Status where
  | ok
  | frameLengthMismatch
  | emptyFrame
  | invalidDigit
  | invalidDecimalPoint
  | unspecifiedSign
  | reservedOp
deriving DecidableEq, Repr

/-- One response (10_state.md R25, 30_encoding.md R47): the outcome, the plaintext frame and the nine
measurement fields, each in the width of R47. -/
structure Response where
  status : Status
  plain : Frame
  neg : Bool
  ovf : Bool
  count : BitVec 14
  dpk : BitVec 2
  mag : BitVec 64
  exp : BitVec 4
  unit : BitVec 3
  scaleDefault : Bool
  aux : Byte
deriving DecidableEq, Repr

/-- One block instance and its two ports. No operation reads `responses`, and no operation writes
`config`. -/
structure State where
  /-- The hardwired tables and reading parameters (10_state.md R22). -/
  config : Config
  /-- The input port (R24): the request words the host presents, the one at the input first; each step
  answers one (00_scope.md R5). This list is the host's program, not a buffer of the block (log entry 4). -/
  requests : List ReqWord
  /-- The output port (R25): the responses issued so far, oldest first. It is the host's record of the
  output; the block reads none of it (R26; log entry 5). -/
  responses : List Response
deriving DecidableEq, Repr

/-- Why a step can stop with a fault: there is no reason. The block raises no trap, exception or
interrupt, and every error is the status of a response (60_exceptions.md R88, R94). -/
inductive Fault where
deriving DecidableEq, Repr

/-- Why a step can be refused. -/
inductive Refusal where
  /-- Raised by an arm of `exec` whose instruction has no meaning yet; safe. Every arm of this model has
  its meaning, so no step raises it. -/
  | notModelled (mnemonic : String)
deriving DecidableEq, Repr

/-- The block right after reset. Reset sets nothing and leaves the hardwired tables as they are
(70_reset_and_hazards.md R99); no request has been presented, and before the first request there is no
response to observe (R100). -/
def State.reset : State where
  config := Config.device
  requests := []
  responses := []

end Sys2Proof.Machine
end

