-- ==== Sys2Proof/Machine/Operands.lean ====
section
/-! DEFINITION. How the operations read their operands: the descrambler's byte steps
(spec/40_descramble.md R61 to R65) and the decoder's field readings (spec/30_encoding.md R54 to R58,
spec/41_decode.md R75 to R83). -/

namespace Sys2Proof.Machine

/-! ### The descrambler's byte steps -/

/-- `rev8` (R61): result bit i is operand bit 7 - i. -/
def rev8 (b : Byte) : Byte :=
  b.extractLsb' 0 1 ++ b.extractLsb' 1 1 ++ b.extractLsb' 2 1 ++ b.extractLsb' 3 1 ++
    b.extractLsb' 4 1 ++ b.extractLsb' 5 1 ++ b.extractLsb' 6 1 ++ b.extractLsb' 7 1

/-- Step 1 (R63): `Q[p] = R[PERM[p]]`. -/
def permutedByte (t : Tables) (R : Frame) (p : Fin 14) : Byte := R[t.perm[p]]

/-- Step 2 (R64): `A[p] = Q[p] +8 OFF[p]`. -/
def offsetByte (t : Tables) (R : Frame) (p : Fin 14) : Byte := add8 (permutedByte t R p) t.off[p]

/-- Step 3 (R65): `P[p] = rev8(A[p])`. -/
def plainByte (t : Tables) (R : Frame) (p : Fin 14) : Byte := rev8 (offsetByte t R p)

/-! ### The sentinels of R55 -/

/-- EMPTY: byte 0 of a frame without a new reading. -/
def emptySentinel : Byte := 0x00#8

/-- POSITIVE: byte 0 of a frame whose magnitude stays as it is. -/
def positiveSentinel : Byte := 0x2B#8

/-- NEGATIVE: byte 0 of a frame whose magnitude is negated. -/
def negativeSentinel : Byte := 0x2D#8

/-- OVERFLOW: in any of bytes 1 to 4. -/
def overflowSentinel : Byte := 0x3A#8

/-- DIGIT_BIAS: subtracted from bytes 1 to 4. -/
def digitBias : Byte := 0x30#8

/-! ### Digits and decimal point -/

/-- One digit byte (R75): a decimal digit, or nothing when the byte is outside 0x30..0x39. -/
def digit (b : Byte) : Option Nat :=
  let d := b.toNat - digitBias.toNat
  if digitBias.toNat ≤ b.toNat ∧ d ≤ 9 then some d else none

/-- The integer reading of the digit group (R33, R77): bytes 1 to 4, thousands first; nothing when some
digit byte is no digit (R75). -/
def digitCount (P : Frame) : Option Nat :=
  match digit P[1], digit P[2], digit P[3], digit P[4] with
  | some d1, some d2, some d3, some d4 => some (1000 * d1 + 100 * d2 + 10 * d3 + d4)
  | _, _, _, _ => none

/-- Selector byte of divisor 1 (R56). -/
def dpOne : Byte := 0x00#8
/-- Selector byte of divisor 10 (R56). -/
def dpTen : Byte := 0x34#8
/-- Selector byte of divisor 100 (R56). -/
def dpHundred : Byte := 0x32#8
/-- Selector byte of divisor 1000 (R56). -/
def dpThousand : Byte := 0x31#8

/-- The decimal places k that byte 6 selects, the divisor being 10^k (R56, R76); nothing when the byte
is no selector. -/
def decimalPlaces (b : Byte) : Option Nat :=
  if b = dpOne then some 0
  else if b = dpTen then some 1
  else if b = dpHundred then some 2
  else if b = dpThousand then some 3
  else none

/-! ### Scale, unit and auxiliary byte -/

/-- The scale key that byte 9's high nibble matches, tried in the order of R81; bits 3..0 of the byte
are not read (R57). -/
def scaleMatch (t : Tables) (b : Byte) : Option ScaleKey :=
  ScaleKey.all.find? fun k => decide (b.extractLsb' 4 4 = t.scaleNib.get k)

/-- The unit that byte 10 matches (R58, R82). -/
def unitMatch (t : Tables) (b : Byte) : Option MeterUnit :=
  MeterUnit.all.find? fun u => decide (b = t.unitByte.get u)

/-- The exponent of a scale match; no match gives 0 (R81). -/
def scaleExponent : Option ScaleKey → Int
  | some k => k.exponent
  | none => 0

/-- The 4-bit two's complement code of an exponent (R52). -/
def exponentCode (e : Int) : BitVec 4 := BitVec.ofInt 4 e

/-- The 3-bit code of a unit; no match is UNRECOGNIZED, 7 (R51). -/
def unitCode : Option MeterUnit → BitVec 3
  | some .hFE => 0#3
  | some .v => 1#3
  | some .ohm => 2#3
  | some .f => 3#3
  | some .hz => 4#3
  | some .c => 5#3
  | some .a => 6#3
  | none => 7#3

/-- The integer value of the auxiliary byte (R10, R83). -/
def auxInteger : AuxExt → Byte → Int
  | .sext8, b => b.toInt
  | .zext8, b => b.toNat

/-! ### Status codes and response words -/

/-- The number of a status (R48). -/
def Status.code : Status → BitVec 3
  | .ok => 0#3
  | .frameLengthMismatch => 1#3
  | .emptyFrame => 2#3
  | .invalidDigit => 3#3
  | .invalidDecimalPoint => 4#3
  | .unspecifiedSign => 5#3
  | .reservedOp => 7#3

/-- The response word `RSP[212:0]` of a response (R47). -/
def Response.toWord (r : Response) : RspWord :=
  r.aux ++ BitVec.ofBool r.scaleDefault ++ r.unit ++ r.exp ++ r.mag ++ r.dpk ++ r.count ++
    BitVec.ofBool r.ovf ++ BitVec.ofBool r.neg ++ frameToBits r.plain ++ r.status.code

/-- The integer value of a response's auxiliary byte in a given block (R83). -/
def State.auxValue (s : State) (r : Response) : Int := auxInteger s.config.auxExt r.aux

end Sys2Proof.Machine
end

