-- ==== Sys2Proof/Machine/Flags.lean ====
section
/-! DEFINITION. The three flags of one response, `ovf`, `neg` and `scale_default`. The block holds no
flag: each is computed afresh for every response (spec/10_state.md R20, spec/30_encoding.md R50). -/

namespace Sys2Proof.Machine

/-- `ovf` (41_decode.md R74): the overflow sentinel stands in any of bytes 1 to 4. -/
def overflowFlag (P : Frame) : Bool :=
  P[1] == overflowSentinel || P[2] == overflowSentinel || P[3] == overflowSentinel ||
    P[4] == overflowSentinel

/-- `neg` at the sign step (R79, R80): 1 for the negative sentinel, 0 for the positive one; any other
byte 0 is read by `SIGN_OTHER`: nothing (UNSPECIFIED), or 0 (AS_POSITIVE). -/
def signFlag (other : SignOther) (b : Byte) : Option Bool :=
  if b = negativeSentinel then some true
  else if b = positiveSentinel then some false
  else
    match other with
    | .unspecified => none
    | .asPositive => some false

/-- `scale_default` (R81): no scale nibble matched. -/
def scaleDefaultFlag (m : Option ScaleKey) : Bool := m.isNone

end Sys2Proof.Machine
end

