-- ==== Sys2Proof/Machine/Ops.lean ====
section
/-! DEFINITION. The operations the meanings share: descrambling and its inverse
(spec/40_descramble.md), the decoder's steps (spec/41_decode.md), building a response
(spec/30_encoding.md R49 to R53), issuing it, and taking the next request. -/

namespace Sys2Proof.Machine

/-! ### Descrambling -/

/-- The descrambled frame (R66): every plaintext byte by R63, R64 and R65. -/
def descrambleFrame (t : Tables) (R : Frame) : Frame := Vector.ofFn fun p => plainByte t R p

/-- One turn of SCRAMBLE's loop (R68): `R[PERM[p]] <- rev8(P[p]) -8 OFF[p]`. -/
def scrambleByte (t : Tables) (P : Frame) (R : Frame) (p : Fin 14) : Frame :=
  R.set t.perm[p] (sub8 (rev8 P[p]) t.off[p])

/-- SCRAMBLE, the device's forward transform (R68): no operation of the block, defined for the round
trip of R69. -/
def scrambleFrame (t : Tables) (P : Frame) : Frame :=
  (List.finRange 14).foldl (scrambleByte t P) Frame.zero

/-! ### Decoding -/

/-- The record of a successful decode (30_encoding.md R50). -/
structure Measurement where
  neg : Bool
  ovf : Bool
  count : Nat
  dpk : Nat
  mag : Binary64
  exp : Int
  unit : Option MeterUnit
  scaleDefault : Bool
  aux : Byte
deriving DecidableEq, Repr

/-- The unsigned reading of steps 2 to 5: overflow condition, count, decimal places, magnitude. -/
structure Reading where
  ovf : Bool
  count : Nat
  dpk : Nat
  mag : Binary64
deriving DecidableEq, Repr

/-- The magnitude of step 5 (R78): the binary64 quotient of the count by the divisor. -/
def unsignedMagnitude (count dpk : Nat) : Binary64 := fdiv (f64 count) (f64 (10 ^ dpk))

/-- Steps 2 to 5 (R74 to R78). Overflow skips the digit and decimal-point steps; without it the digits
are checked before the decimal point (60_exceptions.md R91). -/
def readMagnitude (P : Frame) : Except Status Reading :=
  if overflowFlag P then .ok ⟨true, 0, 0, posInf⟩
  else
    match digitCount P with
    | none => .error .invalidDigit
    | some count =>
      match decimalPlaces P[6] with
      | none => .error .invalidDecimalPoint
      | some dpk => .ok ⟨false, count, dpk, unsignedMagnitude count dpk⟩

/-- The sign-adjusted magnitude (R79, R80). -/
def signedMagnitude (neg : Bool) (m : Binary64) : Binary64 := if neg then fneg m else m

/-- The ten steps on a 14-byte plaintext frame (R71 from its second line on): the record, or the status
of the first step that fails. -/
def decodeFrame (c : Config) (P : Frame) : Except Status Measurement :=
  if P[0] = emptySentinel then .error .emptyFrame
  else
    match readMagnitude P with
    | .error e => .error e
    | .ok r =>
      match signFlag c.signOther P[0] with
      | none => .error .unspecifiedSign
      | some neg =>
        .ok {
          neg := neg
          ovf := r.ovf
          count := r.count
          dpk := r.dpk
          mag := signedMagnitude neg r.mag
          exp := scaleExponent (scaleMatch c.tables P[9])
          unit := unitMatch c.tables P[10]
          scaleDefault := scaleDefaultFlag (scaleMatch c.tables P[9])
          aux := P[11] }

/-! ### Responses -/

/-- The response that carries a status and nothing else: every other field is zero (R53). -/
def Response.ofStatus (st : Status) : Response where
  status := st
  plain := Frame.zero
  neg := false
  ovf := false
  count := 0#14
  dpk := 0#2
  mag := 0#64
  exp := 0#4
  unit := 0#3
  scaleDefault := false
  aux := 0#8

/-- The same response with a plaintext frame (R49). -/
def Response.withPlain (r : Response) (P : Frame) : Response := { r with plain := P }

/-- The OK response of a record, `plain` zero (R50 to R53). -/
def Response.ofMeasurement (m : Measurement) : Response where
  status := .ok
  plain := Frame.zero
  neg := m.neg
  ovf := m.ovf
  count := BitVec.ofNat 14 m.count
  dpk := BitVec.ofNat 2 m.dpk
  mag := m.mag
  exp := exponentCode m.exp
  unit := unitCode m.unit
  scaleDefault := m.scaleDefault
  aux := m.aux

/-- THE ONE WAY AN ERROR ENDS AN OPERATION, the block's only analogue of an exception (00_scope.md R17,
60_exceptions.md R88): a response with the error's status and no record. A decode result becomes a
response here. -/
def Response.ofDecode : Except Status Measurement → Response
  | .error st => Response.ofStatus st
  | .ok m => Response.ofMeasurement m

/-- DESCRAMBLE's answer (R66, R67). -/
def answerDescramble (c : Config) (len : Nat) (R : Frame) : Response :=
  if len = frameLength then (Response.ofStatus .ok).withPlain (descrambleFrame c.tables R)
  else Response.ofStatus .frameLengthMismatch

/-- DECODE's answer (R71, R72). -/
def answerDecode (c : Config) (len : Nat) (P : Frame) : Response :=
  if len = frameLength then Response.ofDecode (decodeFrame c P)
  else Response.ofStatus .frameLengthMismatch

/-- DESCRAMBLE_DECODE's answer (R86): DECODE's answer on the descrambled frame, the frame kept in
`plain` whatever the decode status. -/
def answerDescrambleDecode (c : Config) (len : Nat) (R : Frame) : Response :=
  if len = frameLength then
    (Response.ofDecode (decodeFrame c (descrambleFrame c.tables R))).withPlain
      (descrambleFrame c.tables R)
  else Response.ofStatus .frameLengthMismatch

/-- The answer to the reserved operation (30_encoding.md R44). -/
def answerReserved : Response := Response.ofStatus .reservedOp

/-! ### Ports -/

/-- A response is issued whole (20_memory.md R38); nothing else of the state changes. -/
def State.respond (s : State) (r : Response) : State := { s with responses := s.responses ++ [r] }

/-- The request at the input is taken: the word, and the state without it. -/
def State.takeRequest (s : State) : Option (ReqWord × State) :=
  match s.requests with
  | [] => none
  | w :: rest => some (w, { s with requests := rest })

/-- A request word is put at the input in place of the one that stands there. -/
def State.presentRequest (s : State) (w : ReqWord) : State :=
  { s with requests := w :: s.requests.tail }

end Sys2Proof.Machine
end

