-- ==== Sys2Proof/Machine/Decoder.lean ====
section
/-! DEFINITION. The Message Decoder's instructions (spec/41_decode.md). -/

namespace Sys2Proof.Machine

/-- `DECODE` (R71). -/
def execDecode (len : Nat) (data : Frame) (s : State) : Host.Outcome State Fault Refusal :=
  .next (s.respond (answerDecode s.config len data))

/-- `DESCRAMBLE_DECODE` (R86). -/
def execDescrambleDecode (len : Nat) (data : Frame) (s : State) :
    Host.Outcome State Fault Refusal :=
  .next (s.respond (answerDescrambleDecode s.config len data))

end Sys2Proof.Machine
end

