-- ==== Sys2Proof/Machine/Descrambler.lean ====
section
/-! DEFINITION. The Byte Descrambler's instruction (spec/40_descramble.md). -/

namespace Sys2Proof.Machine

/-- `DESCRAMBLE` (R66, R67): the response is issued and the machine goes on, whatever the status
(60_exceptions.md R88). -/
def execDescramble (len : Nat) (data : Frame) (s : State) : Host.Outcome State Fault Refusal :=
  .next (s.respond (answerDescramble s.config len data))

end Sys2Proof.Machine
end

