-- ==== Sys2Proof/Machine/Dispatch.lean ====
section
/-! DEFINITION. One arm per operation, each a direct call of its meaning. -/

namespace Sys2Proof.Machine

def exec (i : Instr) (s : State) : Host.Outcome State Fault Refusal :=
  match i with
  | .descramble len data => Sys2Proof.Machine.execDescramble len data s
  | .decode len data => Sys2Proof.Machine.execDecode len data s
  | .descrambleDecode len data => Sys2Proof.Machine.execDescrambleDecode len data s

end Sys2Proof.Machine
end

