-- ==== Sys2Proof/Machine/Step.lean ====
section
/-! DEFINITION. One step: one request in, one response out (spec/00_scope.md R5). -/

namespace Sys2Proof.Machine

/-- One step takes the request at the input and answers it: an operation by its meaning, the reserved
encoding by RESERVED_OP (30_encoding.md R44). With no request at the input nothing happens (log entry
10). -/
def step (s : State) : Host.Outcome State Fault Refusal :=
  match s.takeRequest with
  | none => .next s
  | some (w, s') =>
    match decode w with
    | .instr i => exec i s'
    | .reservedOp => .next (s'.respond answerReserved)

/-- The state in which the next step answers the request whose low `nbits` bits are those of `w`, every
other bit zero (log entry 8). -/
def State.withFetchWord (s : State) (nbits w : Nat) : State := s.presentRequest (tableWord nbits w)

end Sys2Proof.Machine
end

