-- ==== Sys2Proof/Machine/Assembler.lean ====
section
/-! DEFINITION. The assembler syntax of requests (spec/30_encoding.md R59), as abstract lines: what a
line of text says, and the request word it stands for. -/

namespace Sys2Proof.Machine

/-- One line of the syntax of R59, its byte literals already read. -/
inductive AsmLine where
  | descramble (bytes : List Byte)
  | decode (bytes : List Byte)
  | descrambleDecode (bytes : List Byte)
  /-- `DECODE.len=<n>`. -/
  | decodeLen (n : Nat) (bytes : List Byte)
  | op3
deriving DecidableEq, Repr

/-- The 14 lanes of a list of operand bytes, lanes without an operand zero. -/
def lanesOf (bytes : List Byte) : Frame := Vector.ofFn fun i => bytes.getD i.val 0#8

/-- The operand count a `.len=<n>` line may have: `n` operands, and with `n > 14` at most 14 (R59). -/
def operandCountLegal (n count : Nat) : Bool := if n ≤ 14 then count == n else decide (count ≤ 14)

/-- The request word of a line; nothing for a malformed line (R59). -/
def assemble : AsmLine → Option ReqWord
  | .descramble bytes =>
    if bytes.length = 14 then some (packRequest 0b00#2 14 (lanesOf bytes)) else none
  | .decode bytes =>
    if bytes.length = 14 then some (packRequest 0b01#2 14 (lanesOf bytes)) else none
  | .descrambleDecode bytes =>
    if bytes.length = 14 then some (packRequest 0b10#2 14 (lanesOf bytes)) else none
  | .decodeLen n bytes =>
    if n ≤ 31 ∧ operandCountLegal n bytes.length then some (packRequest 0b01#2 n (lanesOf bytes))
    else none
  | .op3 => some op3Word

end Sys2Proof.Machine
end

