-- ==== Sys2Proof/Safety.lean ====
section
/-! DEFINITION. What a response may look like, what a consumer may read of it, and what a caller does
with each status: the terms in which claims about the block are made. -/

namespace Sys2Proof.Machine

/-! ### What a consumer may read -/

/-- A consumer may read the measurement fields of a decode's response only when the status is OK
(70_reset_and_hazards.md R103). -/
abbrev Response.Readable (r : Response) : Prop := r.status = .ok

/-- RESERVED_OP: a fault of the requester (30_encoding.md R44, 60_exceptions.md R89). -/
abbrev Response.RequesterFault (r : Response) : Prop := r.status = .reservedOp

/-- UNSPECIFIED_SIGN: the block's behaviour is unspecified for this frame, so that nothing may be
claimed of the frame's measurement (60_exceptions.md R89). -/
abbrev Response.MeasurementUnspecified (r : Response) : Prop := r.status = .unspecifiedSign

/-- What the caller does with a response (60_exceptions.md R90). -/
inductive CallerPolicy where
  /-- OK: the record is used. -/
  | use
  /-- FRAME_LENGTH_MISMATCH: fatal for that frame; discard and continue. -/
  | discardFatal
  /-- EMPTY_FRAME: benign; poll again, not reported to the user. -/
  | retry
  /-- A malformed payload, or a status the source has no policy for: discard the frame and continue,
  without a retry of the same bytes. -/
  | discard
deriving DecidableEq, Repr

/-- The caller's policy for each status (60_exceptions.md R90). -/
def Status.policy : Status → CallerPolicy
  | .ok => .use
  | .frameLengthMismatch => .discardFatal
  | .emptyFrame => .retry
  | .invalidDigit => .discard
  | .invalidDecimalPoint => .discard
  | .unspecifiedSign => .discard
  | .reservedOp => .discard

/-! ### What a response may hold -/

/-- Every measurement field is zero (30_encoding.md R53). -/
abbrev Response.MeasurementZero (r : Response) : Prop :=
  r.neg = false ∧ r.ovf = false ∧ r.count = 0#14 ∧ r.dpk = 0#2 ∧ r.mag = 0#64 ∧ r.exp = 0#4 ∧
    r.unit = 0#3 ∧ r.scaleDefault = false ∧ r.aux = 0#8

/-- The measurement fields form a record of 30_encoding.md R50 to R52: the count is a reading of four
digits, an overflow has neither count nor decimal places and an infinite magnitude, the magnitude's sign
bit is `neg`, the exponent code is one of the five of R52, and the scale tag stands exactly with
exponent 0. -/
abbrev Response.RecordFormed (r : Response) : Prop :=
  r.count.toNat ≤ 9999 ∧
  (r.ovf = true → r.count = 0#14 ∧ r.dpk = 0#2 ∧ r.mag = signedMagnitude r.neg posInf) ∧
  r.mag.msb = r.neg ∧
  r.exp ∈ [0xA#4, 0xD#4, 0x0#4, 0x3#4, 0x6#4] ∧
  (r.scaleDefault = true ↔ r.exp = 0#4)

/-- A whole response (20_memory.md R38, 30_encoding.md R53): a complete record or a zero one with an OK
status, or an error status without a record, and without a frame where no frame was descrambled. -/
abbrev Response.Whole (r : Response) : Prop :=
  (r.status = .ok → r.MeasurementZero ∨ r.RecordFormed) ∧
  (r.status ≠ .ok → r.MeasurementZero) ∧
  (r.status = .frameLengthMismatch ∨ r.status = .reservedOp → r.plain = Frame.zero)

/-! ### The invariant of a block instance -/

/-- The hardwired tables are well-formed (00_scope.md R6 to R9), and every response issued is whole. -/
abbrev State.Inv (s : State) : Prop := s.config.WellFormed ∧ ∀ r ∈ s.responses, r.Whole

end Sys2Proof.Machine
end

