-- ==== Sys2Proof/Certificates/Slice0/Obligations.lean ====
section
/-! DEFINITION. The statements for the provers, from the numbered rules of spec/. An operation's own
statement concludes with the next state in full: `{ s with responses := s.responses ++ [r] }` says that
one response is issued and that the configuration, the waiting requests and every earlier response stay
as they were. -/

open Sys2Proof Sys2Proof.Machine

/-! ### Encoding -/

/-- Request words printed in 95_test_vectors.md (W-A, W-D, DD-1, program P3 step 1, OP3) decode to the
requests they are printed for (30_encoding.md R42 to R44). -/
def Obligations.PrintedRequestWordsDecode : Prop :=
  decode 0x0000004000000000001A19991895B9#119 =
    .instr (.decode 14 #v[0x2B, 0x31, 0x32, 0x33, 0x34, 0, 0, 0, 0, 0, 0x80, 0, 0, 0]) ∧
  decode 0x0000004000000000001A19991895B5#119 =
    .instr (.decode 13 #v[0x2B, 0x31, 0x32, 0x33, 0x34, 0, 0, 0, 0, 0, 0x80, 0, 0, 0]) ∧
  decode 0x128F294271BB17B14ACA67A039D33A#119 =
    .instr (.descrambleDecode 14
      #v[0xA6, 0x73, 0x40, 0xCF, 0x94, 0x95, 0x62, 0x2F, 0x76, 0xE3, 0x84, 0x52, 0x1E, 0x25]) ∧
  decode 0x728F294251FB17B110EA579FB9D338#119 =
    .instr (.descramble 14
      #v[0xA6, 0x73, 0x3F, 0xAF, 0xD4, 0x21, 0x62, 0x2F, 0xF6, 0xA3, 0x84, 0x52, 0x1E, 0xE5]) ∧
  decode 0x000000000000000000000000000003#119 = .reservedOp

/-- No bit of an encoding is dropped: the request word of a well-formed instruction, with every length
0..31 and every value of every lane, decodes to that instruction (30_encoding.md R42, R43). -/
def Obligations.DecodeOfEncodeIsTheInstruction : Prop :=
  ∀ i : Instr, i.WellFormed → decode (encode i) = .instr i

/-- Each request word has one reading (30_encoding.md R42, R60): an instruction that a word decodes to
encodes to that very word, and its length fits the `len` field. -/
def Obligations.EncodeOfDecodeIsTheWord : Prop :=
  ∀ (w : ReqWord) (i : Instr), decode w = .instr i → encode i = w ∧ i.WellFormed

/-- Where the decoder reads each field (30_encoding.md R42, R43, 20_memory.md R32): the operation from
bits 1..0, the length from bits 6..2, bit b of data byte p from bit 7 + 8p + b. -/
def Obligations.RequestFieldsStandWhereR42PutsThem : Prop :=
  ∀ w : ReqWord,
    (w.toNat % 4 = 3 ↔ decode w = .reservedOp) ∧
    ∀ i : Instr, decode w = .instr i →
      i.len = w.toNat / 4 % 32 ∧
      (∀ p : Fin 14, ∀ b < 8, i.data[p].getLsbD b = w.getLsbD (7 + 8 * p.val + b)) ∧
      (w.toNat % 4 = 0 → i = .descramble i.len i.data) ∧
      (w.toNat % 4 = 1 → i = .decode i.len i.data) ∧
      (w.toNat % 4 = 2 → i = .descrambleDecode i.len i.data)

/-- Where each field of a response stands in its word (30_encoding.md R47, R48, 20_memory.md R32). -/
def Obligations.ResponseFieldsStandWhereR47PutsThem : Prop :=
  ∀ r : Response,
    r.toWord.extractLsb' 0 3 = r.status.code ∧
    (∀ p : Fin 14, r.toWord.extractLsb' (3 + 8 * p.val) 8 = r.plain[p]) ∧
    r.toWord.getLsbD 115 = r.neg ∧
    r.toWord.getLsbD 116 = r.ovf ∧
    r.toWord.extractLsb' 117 14 = r.count ∧
    r.toWord.extractLsb' 131 2 = r.dpk ∧
    r.toWord.extractLsb' 133 64 = r.mag ∧
    r.toWord.extractLsb' 197 4 = r.exp ∧
    r.toWord.extractLsb' 201 3 = r.unit ∧
    r.toWord.getLsbD 204 = r.scaleDefault ∧
    r.toWord.extractLsb' 205 8 = r.aux

/-- The response word drops nothing of a response (30_encoding.md R47). -/
def Obligations.ResponseWordDeterminesTheResponse : Prop :=
  ∀ r r' : Response, r.toWord = r'.toWord → r = r'

/-- Status code 6 is never produced (30_encoding.md R48). -/
def Obligations.StatusSixIsNeverProduced : Prop :=
  ∀ r : Response, r.toWord.extractLsb' 0 3 ≠ 6#3

/-- The assembler's lines (30_encoding.md R59): 14 operands give the request word of the named operation
with `len = 14`; a `.len=<n>` line gives DECODE with that length and zero lanes past its operands; `OP3`
is the word 3; a line without `.len=` and without 14 operands is malformed. -/
def Obligations.AssemblerLinesEncodeTheirRequests : Prop :=
  (∀ F : Frame,
    (assemble (.descramble F.toList)).map decode = some (.instr (.descramble 14 F)) ∧
    (assemble (.decode F.toList)).map decode = some (.instr (.decode 14 F)) ∧
    (assemble (.descrambleDecode F.toList)).map decode = some (.instr (.descrambleDecode 14 F))) ∧
  (∀ (n : Nat) (bytes : List Byte), n ≤ 31 → bytes.length = min n 14 →
    ∃ F : Frame, (assemble (.decodeLen n bytes)).map decode = some (.instr (.decode n F)) ∧
      ∀ i : Fin 14, F[i] = bytes.getD i.val 0#8) ∧
  (∀ bytes : List Byte, bytes.length ≠ 14 →
    assemble (.descramble bytes) = none ∧ assemble (.decode bytes) = none ∧
      assemble (.descrambleDecode bytes) = none) ∧
  assemble .op3 = some 3#119

/-! ### The step -/

/-- A step takes the request at the input and runs the operation it decodes to, on the state without
that request. -/
def Obligations.StepRunsTheRequestedOperation : Prop :=
  ∀ (s : State) (w : ReqWord) (rest : List ReqWord) (i : Instr),
    s.requests = w :: rest → decode w = .instr i → step s = exec i { s with requests := rest }

/-- The reserved operation (30_encoding.md R44): whatever the other bits of the word, the response is
RESERVED_OP with every other field zero, a fault of the requester. -/
def Obligations.ReservedOperationIsAnswered : Prop :=
  ∀ (s : State) (w : ReqWord) (rest : List ReqWord),
    s.requests = w :: rest → w.extractLsb' 0 2 = 0b11#2 →
    ∃ r : Response,
      step s = .next { s with requests := rest, responses := s.responses ++ [r] } ∧
      r.status = .reservedOp ∧ r.toWord = 7#213 ∧ r.RequesterFault

/-- THE MODEL'S CHOICE (log entry 10): with no request at the input a step changes nothing. -/
def Obligations.NoRequestNoChange : Prop :=
  ∀ s : State, s.requests = [] → step s = .next s

/-- Every step answers a next state. That an error stops nothing is 60_exceptions.md R88; that no step
at all stops is the model's reading of it (log entry 14, DEDUCED), and that a step without a request
answers the unchanged state is the model's choice (log entry 10). -/
def Obligations.NoStepStops : Prop :=
  ∀ s : State, ∃ t : State, step s = .next t

/-- The block is a pure function (10_state.md R18, 00_scope.md R5, 41_decode.md R87): ONE function of
the tables, `SIGN_OTHER` and the request word gives the response of every step, whatever came before,
and the step changes nothing else. -/
def Obligations.OneFunctionGivesEveryResponse : Prop :=
  ∃ f : Tables → SignOther → ReqWord → Response,
    ∀ (s : State) (w : ReqWord) (rest : List ReqWord), s.requests = w :: rest →
      step s = .next { s with
        requests := rest,
        responses := s.responses ++ [f s.config.tables s.config.signOther w] }

/-- No earlier request can change a response (10_state.md R18): two blocks with the same tables
and `SIGN_OTHER` and the same request at the input issue the same response, whatever they were asked
and answered before and whatever waits behind. -/
def Obligations.EarlierRequestsDoNotMatter : Prop :=
  ∀ (s t : State) (w : ReqWord) (rs rt : List ReqWord),
    s.config.tables = t.config.tables → s.config.signOther = t.config.signOther → s.requests = w :: rs → t.requests = w :: rt →
    ∃ r : Response,
      step s = .next { s with requests := rs, responses := s.responses ++ [r] } ∧
      step t = .next { t with requests := rt, responses := t.responses ++ [r] }

/-- The whole run of a program (95_test_vectors.md section 6, 20_memory.md R37): k steps answer the
first k requests in order, each by one and the same function of the configuration and that request, and
leave the rest waiting. For a k above the number of requests it rests on the model's choice that a step
without a request changes nothing (log entry 10). -/
def Obligations.RunAnswersEachRequestInOrder : Prop :=
  ∃ f : Config → ReqWord → Response, ∀ (k : Nat) (s : State),
    Host.Core.run Sys2Proof.core k s = .next { s with
      requests := s.requests.drop k,
      responses := s.responses ++ (s.requests.take k).map (f s.config) }

/-- The order of requests does not matter (20_memory.md R37): two programs that are rearrangements of
one another, run to their ends on blocks of one configuration, get rearrangements of the same
responses. -/
def Obligations.RequestOrderRearrangesTheResponses : Prop :=
  ∀ s t : State, s.config = t.config → s.requests.Perm t.requests →
    ∃ rs rt : List Response,
      Host.Core.run Sys2Proof.core s.requests.length s =
        .next { s with requests := [], responses := s.responses ++ rs } ∧
      Host.Core.run Sys2Proof.core t.requests.length t =
        .next { t with requests := [], responses := t.responses ++ rt } ∧
      rs.Perm rt

/-- The same request twice yields the same response twice (20_memory.md R36), and reading it has no side
effect. -/
def Obligations.RepeatedRequestRepeatsItsResponse : Prop :=
  ∀ (s : State) (w : ReqWord) (rest : List ReqWord), s.requests = w :: w :: rest →
    ∃ r : Response, Host.Core.run Sys2Proof.core 2 s =
      .next { s with requests := rest, responses := s.responses ++ [r, r] }

/-- The first request after reset (70_reset_and_hazards.md R99, R100): its response is the one any
block of that configuration gives for that request alone, and it is the only response there is. The
empty list of responses at reset is the model's choice (log entry 5), and so are the empty list of
requests at reset, which leaves no request behind the presented one (log entry 4), and the presentation
itself (log entry 8). -/
def Obligations.FirstResponseAfterReset : Prop :=
  State.reset.responses = [] ∧
  ∀ (s : State) (w : ReqWord) (rest : List ReqWord),
    s.config = State.reset.config → s.requests = w :: rest →
    ∃ r : Response,
      step s = .next { s with requests := rest, responses := s.responses ++ [r] } ∧
      step (State.reset.presentRequest w) =
        .next { config := State.reset.config, requests := [], responses := [r] }

/-! ### DESCRAMBLE -/

/-- `rev8` (40_descramble.md R61): bit i of the result is bit 7 - i of the operand, with the rule's
examples. -/
def Obligations.BitReversalMirrorsTheByte : Prop :=
  (∀ (b : Byte) (i : Nat), i < 8 → (rev8 b).getLsbD i = b.getLsbD (7 - i)) ∧
  rev8 0x01#8 = 0x80#8 ∧ rev8 0x2B#8 = 0xD4#8 ∧ rev8 0xF0#8 = 0x0F#8 ∧ rev8 0xA5#8 = 0xA5#8

/-- `rev8` is an involution and a bijection, and keeps the number of one bits (40_descramble.md R62). -/
def Obligations.BitReversalIsAnInvolution : Prop :=
  (∀ b : Byte, rev8 (rev8 b) = b) ∧
  Function.Bijective rev8 ∧
  (∀ b : Byte, ((List.range 8).filter fun i => (rev8 b).getLsbD i).length =
    ((List.range 8).filter fun i => b.getLsbD i).length)

/-- DESCRAMBLE of a 14-byte frame (40_descramble.md R63 to R65): plaintext byte p is the raw byte at
`PERM[p]`, plus `OFF[p]` modulo 256, with its bits reversed; the response is OK and every measurement
field of it is zero. Every raw frame is accepted. -/
def Obligations.DescrambleGivesEachPlaintextByte : Prop :=
  ∀ (s : State) (R : Frame), ∃ r : Response,
    exec (.descramble 14 R) s = .next { s with responses := s.responses ++ [r] } ∧
    r.status = .ok ∧ r.MeasurementZero ∧
    ∀ (p : Fin 14) (i : Nat), i < 8 →
      r.plain[p].getLsbD i =
        (BitVec.ofNat 8 ((R[s.config.tables.perm[p]].toNat + s.config.tables.off[p].toNat) % 256)).getLsbD
          (7 - i)

/-- An operand length other than 14 (41_decode.md R72, 40_descramble.md R67, 30_encoding.md R46): every
operation answers FRAME_LENGTH_MISMATCH with every other field zero, whatever the data lanes hold. -/
def Obligations.WrongLengthIsRejectedUnread : Prop :=
  ∀ (s : State) (i : Instr), i.len ≠ 14 → ∃ r : Response,
    exec i s = .next { s with responses := s.responses ++ [r] } ∧
    r.status = .frameLengthMismatch ∧ r.plain = Frame.zero ∧ r.toWord = 1#213

/-- The round trip (40_descramble.md R69): descrambling the scrambled form of any plaintext gives that
plaintext, for every key whose permutation is a bijection. -/
def Obligations.DescrambleUndoesScramble : Prop :=
  ∀ (s : State) (P : Frame), s.config.tables.PermBijective → ∃ r : Response,
    exec (.descramble 14 (scrambleFrame s.config.tables P)) s =
      .next { s with responses := s.responses ++ [r] } ∧
    r.status = .ok ∧ r.plain = P

/-- DESCRAMBLE is a bijection on frames and SCRAMBLE its inverse (40_descramble.md R70). -/
def Obligations.DescrambleIsABijection : Prop :=
  ∀ t : Tables, t.PermBijective →
    Function.Bijective (descrambleFrame t) ∧
    (∀ R : Frame, scrambleFrame t (descrambleFrame t R) = R)

/-! ### DECODE -/

/-- Byte 0 of a frame has no meaning as a sign (41_decode.md R80): it is neither sign sentinel, and
`SIGN_OTHER` leaves other values unspecified. -/
abbrev SignUnspecified (s : State) (P : Frame) : Prop :=
  P[0] ∉ [0x2B#8, 0x2D#8] ∧ s.config.signOther = .unspecified

/-- Some digit byte is the overflow sentinel (41_decode.md R74). -/
abbrev Overflows (P : Frame) : Prop := 0x3A#8 ∈ [P[1], P[2], P[3], P[4]]

/-- All four digit bytes are ASCII decimal digits (41_decode.md R75). -/
abbrev DigitsValid (P : Frame) : Prop :=
  ∀ b ∈ [P[1], P[2], P[3], P[4]], 0x30 ≤ b.toNat ∧ b.toNat ≤ 0x39

/-- Byte 6 is a decimal-point selector (30_encoding.md R56). -/
abbrev PointValid (P : Frame) : Prop := P[6] ∈ [0x00#8, 0x31#8, 0x32#8, 0x34#8]

/-- The status of DECODE is the first failure in the order of 60_exceptions.md R91, and OK when nothing
fails: the whole case split, for every frame. -/
def Obligations.DecodeReportsTheFirstFailure : Prop :=
  ∀ (s : State) (P : Frame), ∃ r : Response,
    exec (.decode 14 P) s = .next { s with responses := s.responses ++ [r] } ∧
    (P[0] = 0x00#8 → r.status = .emptyFrame) ∧
    (P[0] ≠ 0x00#8 → Overflows P → SignUnspecified s P → r.status = .unspecifiedSign) ∧
    (P[0] ≠ 0x00#8 → Overflows P → ¬ SignUnspecified s P → r.status = .ok) ∧
    (P[0] ≠ 0x00#8 → ¬ Overflows P → ¬ DigitsValid P → r.status = .invalidDigit) ∧
    (P[0] ≠ 0x00#8 → ¬ Overflows P → DigitsValid P → ¬ PointValid P →
      r.status = .invalidDecimalPoint) ∧
    (P[0] ≠ 0x00#8 → ¬ Overflows P → DigitsValid P → PointValid P → SignUnspecified s P →
      r.status = .unspecifiedSign) ∧
    (P[0] ≠ 0x00#8 → ¬ Overflows P → DigitsValid P → PointValid P → ¬ SignUnspecified s P →
      r.status = .ok)

/-- The liveness gate (41_decode.md R73): byte 0 zero gives EMPTY_FRAME and nothing else, whatever the
other bytes hold; to the caller it is a benign reason to poll again (60_exceptions.md R90). -/
def Obligations.ZeroByteZeroIsAnEmptyFrame : Prop :=
  ∀ (s : State) (P : Frame), P[0] = 0x00#8 → ∃ r : Response,
    exec (.decode 14 P) s = .next { s with responses := s.responses ++ [r] } ∧
    r.status = .emptyFrame ∧ r.status.policy = .retry ∧ r.toWord = 2#213

/-- A failed DECODE carries its status and nothing else (41_decode.md R84, 30_encoding.md R53,
70_reset_and_hazards.md R103): the response word is the bare status code, whatever was answered
before. -/
def Obligations.FailedDecodeCarriesOnlyItsStatus : Prop :=
  ∀ (s : State) (len : Nat) (P : Frame), ∃ r : Response,
    exec (.decode len P) s = .next { s with responses := s.responses ++ [r] } ∧
    (r.status ≠ .ok → r.toWord.toNat = r.status.code.toNat)

/-- Overflow (41_decode.md R74): with the sentinel 0x3A in any of bytes 1 to 4 a record has an infinite
magnitude, `ovf` set, `count` and `dpk` zero, whatever the digit bytes and byte 6 otherwise hold; the
sign still applies, and either sign sentinel gives a record; without the sentinel 0x3A `ovf` is 0. -/
def Obligations.OverflowGivesInfinity : Prop :=
  ∀ (s : State) (P : Frame), ∃ r : Response,
    exec (.decode 14 P) s = .next { s with responses := s.responses ++ [r] } ∧
    (Overflows P → P[0] ∈ [0x2B#8, 0x2D#8] → r.status = .ok) ∧
    (Overflows P → r.status = .ok →
      r.ovf = true ∧ r.count = 0#14 ∧ r.dpk = 0#2 ∧
      (P[0] ≠ 0x2D#8 → r.neg = false ∧ r.mag = 0x7FF0000000000000#64) ∧
      (P[0] = 0x2D#8 → r.neg = true ∧ r.mag = 0xFFF0000000000000#64)) ∧
    (¬ Overflows P → r.ovf = false)

/-- The decimal-point step (41_decode.md R76, 30_encoding.md R56): on a frame that reaches it (byte 0 not
zero, no overflow, four valid digits) byte 6 = 0x00, 0x31, 0x32, 0x34 selects the divisor 1, 1000, 100,
10, and any other byte is INVALID_DECIMAL_POINT; with a sign sentinel and a selector there is a record. -/
def Obligations.PointByteSelectsTheDivisor : Prop :=
  ∀ (s : State) (P : Frame), P[0] ≠ 0x00#8 → ¬ Overflows P → DigitsValid P →
    ∃ r : Response,
      exec (.decode 14 P) s = .next { s with responses := s.responses ++ [r] } ∧
      (P[6] ∉ [0x00#8, 0x31#8, 0x32#8, 0x34#8] →
        r.status = .invalidDecimalPoint ∧ r.toWord = 4#213) ∧
      (P[6] ∈ [0x00#8, 0x31#8, 0x32#8, 0x34#8] → r.status ≠ .invalidDecimalPoint ∧
        (P[0] ∈ [0x2B#8, 0x2D#8] → r.status = .ok)) ∧
      (r.status = .ok →
        (P[6] = 0x00#8 → 10 ^ r.dpk.toNat = 1) ∧ (P[6] = 0x31#8 → 10 ^ r.dpk.toNat = 1000) ∧
        (P[6] = 0x32#8 → 10 ^ r.dpk.toNat = 100) ∧ (P[6] = 0x34#8 → 10 ^ r.dpk.toNat = 10))

/-- The reading of four digits (41_decode.md R75 to R80, 30_encoding.md R56): digits d1 to d4 in bytes 1
to 4 and the selector of 10^k in byte 6 give the exact count `1000*d1 + 100*d2 + 10*d3 + d4`, `dpk = k`,
and as magnitude the quotient `unsignedMagnitude` of the two (R78), negated exactly for byte 0 = 0x2D.
That quotient, a division of two converted operands, is the one rounding of `count / 10^k`. -/
def Obligations.DigitsGiveTheReading : Prop :=
  ∀ (s : State) (P : Frame) (d1 d2 d3 d4 : Fin 10) (k : Fin 4),
    P[1] = BitVec.ofNat 8 (0x30 + d1.val) → P[2] = BitVec.ofNat 8 (0x30 + d2.val) →
    P[3] = BitVec.ofNat 8 (0x30 + d3.val) → P[4] = BitVec.ofNat 8 (0x30 + d4.val) →
    P[6] = #v[0x00#8, 0x34#8, 0x32#8, 0x31#8][k] →
    P[0] ≠ 0x00#8 → ¬ SignUnspecified s P →
    ∃ r : Response,
      exec (.decode 14 P) s = .next { s with responses := s.responses ++ [r] } ∧
      r.status = .ok ∧ r.ovf = false ∧
      r.count.toNat = 1000 * d1.val + 100 * d2.val + 10 * d3.val + d4.val ∧
      r.dpk.toNat = k.val ∧
      (P[0] ≠ 0x2D#8 → r.neg = false ∧ r.mag = unsignedMagnitude r.count.toNat k.val) ∧
      (P[0] = 0x2D#8 → r.neg = true ∧
        r.mag = unsignedMagnitude r.count.toNat k.val ^^^ 0x8000000000000000#64) ∧
      unsignedMagnitude r.count.toNat k.val = nearest r.count.toNat (10 ^ k.val)

/-- The sign step (41_decode.md R79): byte 0 = 0x2D instead of 0x2B changes exactly two things of an OK
response, `neg` and the sign bit of the magnitude, and nothing of a failure; under 0x2B the magnitude is
not negative. -/
def Obligations.NegativeSignOnlyNegates : Prop :=
  ∀ (s : State) (P : Frame), ∃ r : Response,
    exec (.decode 14 (P.set 0 0x2B#8)) s = .next { s with responses := s.responses ++ [r] } ∧
    (r.status = .ok → r.neg = false ∧ r.mag.msb = false) ∧
    exec (.decode 14 (P.set 0 0x2D#8)) s = .next { s with
      responses := s.responses ++
        [if r.status = .ok then { r with neg := true, mag := r.mag ^^^ 0x8000000000000000#64 }
          else r] }

/-- A byte 0 that is no sentinel (41_decode.md R80): with UNSPECIFIED a frame that passes every other
step gives UNSPECIFIED_SIGN and no record, and one that fails an earlier step keeps that failure; with
AS_POSITIVE the response is the one of the same frame with the positive sentinel. -/
def Obligations.OtherSignBytesFollowSignOther : Prop :=
  ∀ (s : State) (P : Frame), P[0] ∉ [0x00#8, 0x2B#8, 0x2D#8] → ∃ r : Response,
    exec (.decode 14 (P.set 0 0x2B#8)) s = .next { s with responses := s.responses ++ [r] } ∧
    (s.config.signOther = .asPositive →
      exec (.decode 14 P) s = .next { s with responses := s.responses ++ [r] }) ∧
    (s.config.signOther = .unspecified → r.status ≠ .ok →
      exec (.decode 14 P) s = .next { s with responses := s.responses ++ [r] }) ∧
    (s.config.signOther = .unspecified → r.status = .ok → ∃ r' : Response,
      exec (.decode 14 P) s = .next { s with responses := s.responses ++ [r'] } ∧
      r'.status = .unspecifiedSign ∧ r'.MeasurementUnspecified ∧ r'.toWord = 5#213)

/-- The scale step (41_decode.md R81, 30_encoding.md R52, R57): the high nibble of byte 9 selects the
exponent by exact match; no match gives exponent 0 with the tag. The step cannot fail and touches no
other field: another byte 9 changes `exp` and `scale_default` alone. -/
def Obligations.ScaleNibbleSelectsTheExponent : Prop :=
  ∀ (s : State) (P : Frame), s.config.tables.ScaleDistinct → ∃ r : Response,
    exec (.decode 14 P) s = .next { s with responses := s.responses ++ [r] } ∧
    (r.status = .ok →
      (P[9].toNat / 16 = s.config.tables.scaleNib.micro.toNat → r.exp = 0xA#4 ∧ r.scaleDefault = false) ∧
      (P[9].toNat / 16 = s.config.tables.scaleNib.milli.toNat → r.exp = 0xD#4 ∧ r.scaleDefault = false) ∧
      (P[9].toNat / 16 = s.config.tables.scaleNib.kilo.toNat → r.exp = 0x3#4 ∧ r.scaleDefault = false) ∧
      (P[9].toNat / 16 = s.config.tables.scaleNib.mega.toNat → r.exp = 0x6#4 ∧ r.scaleDefault = false) ∧
      ((∀ k : ScaleKey, P[9].toNat / 16 ≠ (s.config.tables.scaleNib.get k).toNat) →
        r.exp = 0x0#4 ∧ r.scaleDefault = true)) ∧
    (∀ b : Byte, ∃ r' : Response,
      exec (.decode 14 (P.set 9 b)) s = .next { s with responses := s.responses ++ [r'] } ∧
      { r' with exp := r.exp, scaleDefault := r.scaleDefault } = r)

/-- The unit step (41_decode.md R82, 30_encoding.md R51, R58): byte 10 selects the unit code by exact
match, 0x80 is V, and a byte that matches nothing gives UNRECOGNIZED. The step cannot fail: another byte
10 changes `unit` alone. -/
def Obligations.UnitByteSelectsTheUnit : Prop :=
  ∀ (s : State) (P : Frame), s.config.tables.UnitDistinct → ∃ r : Response,
    exec (.decode 14 P) s = .next { s with responses := s.responses ++ [r] } ∧
    (r.status = .ok →
      (P[10] = s.config.tables.unitByte.hFE → r.unit = 0#3) ∧
      (P[10] = 0x80#8 → r.unit = 1#3) ∧
      (P[10] = s.config.tables.unitByte.ohm → r.unit = 2#3) ∧
      (P[10] = s.config.tables.unitByte.f → r.unit = 3#3) ∧
      (P[10] = s.config.tables.unitByte.hz → r.unit = 4#3) ∧
      (P[10] = s.config.tables.unitByte.c → r.unit = 5#3) ∧
      (P[10] = s.config.tables.unitByte.a → r.unit = 6#3) ∧
      ((∀ u : MeterUnit, P[10] ≠ s.config.tables.unitByte.get u) → r.unit = 7#3)) ∧
    (∀ b : Byte, ∃ r' : Response,
      exec (.decode 14 (P.set 10 b)) s = .next { s with responses := s.responses ++ [r'] } ∧
      { r' with unit := r.unit } = r)

/-- The auxiliary byte (41_decode.md R83): `aux` is byte 11 unchanged; its integer value is read as
`AUX_EXT` says, the two readings agree for 0x00..0x7F, and no other field depends on byte 11. -/
def Obligations.AuxiliaryByteIsCopiedAndIndependent : Prop :=
  ∀ (s : State) (P : Frame) (b : Byte), ∃ r : Response,
    exec (.decode 14 P) s = .next { s with responses := s.responses ++ [r] } ∧
    exec (.decode 14 (P.set 11 b)) s = .next { s with
      responses := s.responses ++ [if r.status = .ok then { r with aux := b } else r] } ∧
    (r.status = .ok →
      r.aux = P[11] ∧
      (s.config.auxExt = .sext8 → s.auxValue r = P[11].toInt ∧ -128 ≤ s.auxValue r ∧ s.auxValue r ≤ 127) ∧
      (s.config.auxExt = .zext8 → s.auxValue r = P[11].toNat ∧ 0 ≤ s.auxValue r ∧ s.auxValue r ≤ 255)) ∧
    (b.toNat ≤ 0x7F → auxInteger .sext8 b = auxInteger .zext8 b)

/-- The bytes DECODE does not read (41_decode.md R85): frames that agree on bytes 0 to 4, 6, 10, 11 and
the high nibble of byte 9 get the same response; under overflow byte 6 may differ too; with byte 0 zero
everything else may. -/
def Obligations.UnreadBytesDoNotMatter : Prop :=
  ∀ (s : State) (P Q : Frame),
    P[0] = Q[0] →
    (P[0] = 0x00#8 ∨
      (P[1] = Q[1] ∧ P[2] = Q[2] ∧ P[3] = Q[3] ∧ P[4] = Q[4] ∧ (Overflows P ∨ P[6] = Q[6]) ∧
        P[9].toNat / 16 = Q[9].toNat / 16 ∧ P[10] = Q[10] ∧ P[11] = Q[11])) →
    ∃ r : Response,
      exec (.decode 14 P) s = .next { s with responses := s.responses ++ [r] } ∧
      exec (.decode 14 Q) s = .next { s with responses := s.responses ++ [r] }

/-! ### DESCRAMBLE_DECODE -/

/-- DESCRAMBLE_DECODE of a 14-byte frame (41_decode.md R86, 30_encoding.md R49): DESCRAMBLE answers some
plaintext, DECODE of that plaintext answers some response, and the combined operation answers that
response with the plaintext in it, whatever its status. -/
def Obligations.CombinedOperationIsTheComposition : Prop :=
  ∀ (s : State) (R : Frame), ∃ d r : Response,
    exec (.descramble 14 R) s = .next { s with responses := s.responses ++ [d] } ∧
    exec (.decode 14 d.plain) s = .next { s with responses := s.responses ++ [r] } ∧
    exec (.descrambleDecode 14 R) s =
      .next { s with responses := s.responses ++ [{ r with plain := d.plain }] }

/-- What the device sends comes back (41_decode.md R86, 40_descramble.md R69): DESCRAMBLE_DECODE of the
scrambled form of any plaintext answers what DECODE answers for that plaintext, with the plaintext
itself in `plain`. -/
def Obligations.ScrambledFrameIsReadAsItsPlaintext : Prop :=
  ∀ (s : State) (P : Frame), s.config.tables.PermBijective → ∃ r : Response,
    exec (.decode 14 P) s = .next { s with responses := s.responses ++ [r] } ∧
    exec (.descrambleDecode 14 (scrambleFrame s.config.tables P)) s =
      .next { s with responses := s.responses ++ [{ r with plain := P }] }

/-- Which fields each operation's response may carry (30_encoding.md R53): the whole table, for every
operation, length and frame. -/
def Obligations.EachOperationFillsOnlyItsFields : Prop :=
  ∀ (s : State) (i : Instr), ∃ r : Response,
    exec i s = .next { s with responses := s.responses ++ [r] } ∧
    (r.status = .frameLengthMismatch ↔ i.len ≠ 14) ∧
    (r.status ≠ .ok → r.MeasurementZero) ∧
    (r.status = .frameLengthMismatch → r.plain = Frame.zero) ∧
    (∀ len data, i = .descramble len data →
      r.MeasurementZero ∧ (r.status = .ok ∨ r.status = .frameLengthMismatch)) ∧
    (∀ len data, i = .decode len data → r.plain = Frame.zero) ∧
    (∀ len data, i = .descrambleDecode len data → len = 14 →
      ∀ p : Fin 14, r.plain[p] = rev8 (data[s.config.tables.perm[p]] + s.config.tables.off[p]))

/-- The vectors of 95_test_vectors.md under the TEST KEY (DS-2, DD-1, DD-4, DD-6), as packed response
words or plaintexts, for every scale and unit table that is well-formed. -/
def Obligations.TestKeyVectors : Prop :=
  ∀ s : State,
    s.config.tables.perm = #v[3, 8, 13, 4, 9, 0, 5, 10, 1, 6, 11, 2, 7, 12] →
    s.config.tables.off =
      #v[0x05, 0x16, 0x27, 0x38, 0x49, 0x5A, 0x6B, 0x7C, 0x8D, 0x9E, 0xAF, 0xC0, 0xD1, 0xE2] →
    s.config.WellFormed →
    ∃ r1 r2 r3 r4 : Response,
      exec (.descramble 14 (Vector.replicate 14 0xFF#8)) s =
        .next { s with responses := s.responses ++ [r1] } ∧
      r1.plain = #v[0x20, 0xA8, 0x64, 0xEC, 0x12, 0x9A, 0x56, 0xDE, 0x31, 0xB9, 0x75, 0xFD, 0x0B, 0x87] ∧
      exec (.descrambleDecode 14
          #v[0xA6, 0x73, 0x40, 0xCF, 0x94, 0x95, 0x62, 0x2F, 0x76, 0xE3, 0x84, 0x52, 0x1E, 0x25]) s =
        .next { s with responses := s.responses ++ [r2] } ∧
      r2.toWord = 0x00120812690000000000009A40000004000000000001A199918958#213 ∧
      exec (.descrambleDecode 14
          #v[0xA6, 0x73, 0x3F, 0xAF, 0xD4, 0x21, 0x62, 0x2F, 0xF6, 0xA3, 0x84, 0x52, 0x1E, 0xE5]) s =
        .next { s with responses := s.responses ++ [r3] } ∧
      r3.toWord = 0x1FF217EF95810624DD2F3800E80007FC000000018801B981818168#213 ∧
      exec (.descrambleDecode 14 (Vector.replicate 14 0x00#8)) s =
        .next { s with responses := s.responses ++ [r4] } ∧
      r4.status = .invalidDigit ∧
      r4.plain = #v[0xA0, 0x68, 0xE4, 0x1C, 0x92, 0x5A, 0xD6, 0x3E, 0xB1, 0x79, 0xF5, 0x03, 0x8B, 0x47]

/-! ### binary64 -/

/-- `f64` is exact up to 2^53 (00_scope.md R16): the pattern of n is finite, not negative, and its
magnitude, counted in the units of `scaledMagnitude`, is n. -/
def Obligations.IntegersUpTo2Pow53AreExact : Prop :=
  ∀ n : Nat, n ≤ 2 ^ 53 →
    isFinite (f64 n) = true ∧ (f64 n).msb = false ∧ scaledMagnitude (f64 n) = n * scaledOne

/-- The division of step 5 is correctly rounded (41_decode.md R78): the magnitude of every reading is
finite, no finite non-negative binary64 number is nearer to `count / 10^k`, and one that is as near
gives way unless its own last significand bit is odd (ties to even). Distances are counted in
units of 2^-1075 / 10^k. -/
def Obligations.MagnitudeIsTheNearestBinary64 : Prop :=
  ∀ (n : Nat) (k : Nat), n ≤ 9999 → k ≤ 3 →
    isFinite (unsignedMagnitude n k) = true ∧ (unsignedMagnitude n k).msb = false ∧
    ∀ y : Binary64, isFinite y = true → y.msb = false →
      ((scaledMagnitude (unsignedMagnitude n k) * 10 ^ k : Nat) - (n * scaledOne : Nat) : Int).natAbs ≤
        ((scaledMagnitude y * 10 ^ k : Nat) - (n * scaledOne : Nat) : Int).natAbs ∧
      (((scaledMagnitude (unsignedMagnitude n k) * 10 ^ k : Nat) - (n * scaledOne : Nat) : Int).natAbs =
        ((scaledMagnitude y * 10 ^ k : Nat) - (n * scaledOne : Nat) : Int).natAbs →
        y = unsignedMagnitude n k ∨ (unsignedMagnitude n k).getLsbD 0 = false)

/-! ### Invariants -/

/-- Every step keeps the invariant of a block instance: well-formed tables, and every response whole,
with a complete record or none (20_memory.md R38, 30_encoding.md R53, 00_scope.md R6 to R9). -/
def Obligations.EveryStepKeepsTheInvariant : Prop :=
  ∀ s t : State, s.Inv → step s = .next t → t.Inv

/-- The block right after reset meets the invariant, whatever well-formed tables the device has. -/
def Obligations.ResetMeetsTheInvariant : Prop := State.reset.Inv

/-- No operation writes the tables or the reading parameters (10_state.md R22). -/
def Obligations.NoStepWritesTheConfiguration : Prop :=
  ∀ s t : State, step s = .next t → t.config = s.config

/-! ### The magnitude of a response -/

/-- The magnitude a response carries is correctly rounded (41_decode.md R78, R79): in every OK response
without overflow, of any operation, `mag` is finite with the sign `neg`, no finite binary64 number of
that sign is nearer to the signed reading `count / 10^dpk`, and another one as near leaves `mag` with last
significand bit 0 (ties to even). Distances are counted as in MagnitudeIsTheNearestBinary64. A DESCRAMBLE
response carries no record; its zero fields read as the reading 0. -/
def Obligations.ResponseMagnitudeIsTheNearestReading : Prop :=
  ∀ (s : State) (i : Instr), ∃ r : Response,
    exec i s = .next { s with responses := s.responses ++ [r] } ∧
    (r.status = .ok → r.ovf = false →
      isFinite r.mag = true ∧ r.mag.msb = r.neg ∧
      ∀ y : Binary64, isFinite y = true → y.msb = r.neg →
        ((scaledMagnitude r.mag * 10 ^ r.dpk.toNat : Nat) - (r.count.toNat * scaledOne : Nat) : Int).natAbs ≤
          ((scaledMagnitude y * 10 ^ r.dpk.toNat : Nat) - (r.count.toNat * scaledOne : Nat) : Int).natAbs ∧
        (((scaledMagnitude r.mag * 10 ^ r.dpk.toNat : Nat) - (r.count.toNat * scaledOne : Nat) : Int).natAbs =
          ((scaledMagnitude y * 10 ^ r.dpk.toNat : Nat) - (r.count.toNat * scaledOne : Nat) : Int).natAbs →
          y = r.mag ∨ r.mag.getLsbD 0 = false))
end

