-- ==== Sys2Proof/Laws/Binary64.lean ====
section
/-! SUPPORT. What the binary64 primitives answer: one lemma per function. -/

namespace Sys2Proof.Machine

/-! ### Rounding a quotient -/

/-- Rounding a whole number changes nothing. -/
theorem roundQuotient_one (x : Nat) : roundQuotient x 1 = x := by simp [roundQuotient, Nat.mod_one]

/-- A common factor of numerator and denominator does not matter. -/
theorem roundQuotient_mul_right (x y c : Nat) (hc : 0 < c) :
    roundQuotient (x * c) (y * c) = roundQuotient x y := by
  unfold roundQuotient
  simp only [Nat.mul_div_mul_right _ _ hc, Nat.mul_mod_mul_right]
  have h1 : y * c < 2 * (x % y * c) ↔ y < 2 * (x % y) := by
    rw [← Nat.mul_assoc]
    exact Nat.mul_lt_mul_right hc
  have h2 : 2 * (x % y * c) = y * c ↔ 2 * (x % y) = y := by
    rw [← Nat.mul_assoc]
    exact Nat.mul_left_inj (by omega)
  simp only [h1, h2]

/-- No whole number is nearer to `num / den` than the rounded quotient, and one that is as near gives
way to it unless the rounded quotient is odd. -/
theorem roundQuotient_nearest (num den a : Nat) (hd : 0 < den) :
    ((roundQuotient num den * den : Nat) - (num : Nat) : Int).natAbs ≤
      ((a * den : Nat) - (num : Nat) : Int).natAbs ∧
    (((roundQuotient num den * den : Nat) - (num : Nat) : Int).natAbs =
      ((a * den : Nat) - (num : Nat) : Int).natAbs →
      a = roundQuotient num den ∨ roundQuotient num den % 2 = 0) := by
  have hdm := Nat.div_add_mod num den
  have hml := Nat.mod_lt num hd
  unfold roundQuotient
  simp only
  generalize num / den = q at *
  generalize num % den = r at *
  have hnum : num = q * den + r := by
    rw [← hdm]
    ring
  subst hnum
  have multiple (c : Nat) : c = 0 ∨ den ≤ c * den := by
    rcases Nat.eq_zero_or_pos c with h | h
    · exact .inl h
    · exact .inr (Nat.le_mul_of_pos_left _ h)
  rcases (Nat.lt_or_ge q a).symm with ha | ha
  · obtain ⟨c, rfl⟩ := Nat.exists_eq_add_of_le ha
    have e : (a + c) * den = a * den + c * den := by ring
    have e2 : (a + c + 1) * den = a * den + c * den + den := by ring
    rcases multiple c with hc | hc
    · subst hc
      split <;> (first | rw [e2, e, Nat.zero_mul] | rw [e, Nat.zero_mul]) <;> omega
    · split <;> (first | rw [e2, e] | rw [e]) <;> omega
  · obtain ⟨c, rfl⟩ := Nat.exists_eq_add_of_lt ha
    have e : (q + c + 1) * den = q * den + c * den + den := by ring
    have e2 : (q + 1) * den = q * den + den := by ring
    rcases multiple c with hc | hc
    · subst hc
      split <;> (first | rw [e2, e, Nat.zero_mul] | rw [e, Nat.zero_mul]) <;> omega
    · split <;> (first | rw [e2, e] | rw [e]) <;> omega

/-! ### Patterns -/

/-- The pattern with exponent field `E + 1` and significand `q` (or the next power of two) is finite,
and its scaled magnitude is `q * 2 ^ (E + 1)`. -/
theorem scaledMagnitude_pattern (E q : Nat) (h1 : 2 ^ 52 ≤ q) (h2 : q ≤ 2 ^ 53) (hE : E + 2 ≤ 2046) :
    isFinite (BitVec.ofNat 64 (E * 2 ^ 52 + q)) = true ∧
    scaledMagnitude (BitVec.ofNat 64 (E * 2 ^ 52 + q)) = q * 2 ^ (E + 1) := by
  have hlt : E * 2 ^ 52 + q < 2 ^ 64 := by omega
  have hx : exponentField (BitVec.ofNat 64 (E * 2 ^ 52 + q)) = (E * 2 ^ 52 + q) / 2 ^ 52 % 2 ^ 11 := by
    rw [exponentField, BitVec.extractLsb'_toNat, Nat.shiftRight_eq_div_pow, BitVec.toNat_ofNat,
      Nat.mod_eq_of_lt hlt]
  have hf : fractionField (BitVec.ofNat 64 (E * 2 ^ 52 + q)) = (E * 2 ^ 52 + q) % 2 ^ 52 := by
    rw [fractionField, BitVec.extractLsb'_toNat, Nat.shiftRight_zero, BitVec.toNat_ofNat,
      Nat.mod_eq_of_lt hlt]
  by_cases hq : q = 2 ^ 53
  · have ex : exponentField (BitVec.ofNat 64 (E * 2 ^ 52 + q)) = E + 2 := by omega
    have fr : fractionField (BitVec.ofNat 64 (E * 2 ^ 52 + q)) = 0 := by omega
    constructor
    · rw [isFinite, ex]
      simp only [bne_iff_ne, ne_eq]
      omega
    · rw [scaledMagnitude, significand, ex, fr, if_neg (by omega), Nat.max_eq_right (by omega), hq,
        Nat.zero_add, ← Nat.pow_add, ← Nat.pow_add]
      congr 1
      omega
  · have ex : exponentField (BitVec.ofNat 64 (E * 2 ^ 52 + q)) = E + 1 := by omega
    have fr : fractionField (BitVec.ofNat 64 (E * 2 ^ 52 + q)) = q - 2 ^ 52 := by omega
    constructor
    · rw [isFinite, ex]
      simp only [bne_iff_ne, ne_eq]
      omega
    · rw [scaledMagnitude, significand, ex, fr, if_neg (by omega), Nat.max_eq_right (by omega)]
      congr 1
      omega

/-- The nearest non-negative number has no sign bit. -/
theorem nearest_msb (n d : Nat) : (nearest n d).msb = false := by
  unfold nearest
  split
  · decide
  · rw [BitVec.msb_eq_false_iff_two_mul_lt, BitVec.toNat_ofNat,
      show posInf.toNat = 0x7FF0000000000000 from rfl]
    generalize (lastPlace n d + 1074).toNat * 2 ^ 52 +
      roundQuotient (n * 2 ^ (-lastPlace n d).toNat) (d * 2 ^ (lastPlace n d).toNat) = x
    have := Nat.min_le_right x 0x7FF0000000000000
    rw [Nat.mod_eq_of_lt (by omega)]
    omega

/-- Dividing two natural numbers given as binary64 numbers. -/
theorem fdiv_f64 (n d : Nat) :
    fdiv (f64 n) (f64 d) = nearest (scaledMagnitude (f64 n)) (scaledMagnitude (f64 d)) := by
  simp [fdiv, f64, nearest_msb]

theorem fneg_eq (x : Binary64) : fneg x = x ^^^ 0x8000000000000000#64 := rfl

/-! ### What `fneg` changes: the sign bit, and nothing a magnitude is read from -/

@[simp] theorem fneg_msb (x : Binary64) : (fneg x).msb = !x.msb := by
  rw [fneg, BitVec.msb_xor, show (0x8000000000000000#64).msb = true by decide, Bool.xor_true]

@[simp] theorem fneg_fneg (x : Binary64) : fneg (fneg x) = x := by simp [fneg]

theorem fneg_getLsbD (x : Binary64) {i : Nat} (h : i < 63) : (fneg x).getLsbD i = x.getLsbD i := by
  have : (0x8000000000000000#64).getLsbD i = false := by revert i; decide
  rw [fneg, BitVec.getLsbD_xor, this, Bool.xor_false]

@[simp] theorem exponentField_fneg (x : Binary64) : exponentField (fneg x) = exponentField x := by
  refine congrArg BitVec.toNat (BitVec.eq_of_getLsbD_eq fun i hi => ?_)
  simp only [BitVec.getLsbD_extractLsb']
  rw [fneg_getLsbD x (by omega)]

@[simp] theorem fractionField_fneg (x : Binary64) : fractionField (fneg x) = fractionField x := by
  refine congrArg BitVec.toNat (BitVec.eq_of_getLsbD_eq fun i hi => ?_)
  simp only [BitVec.getLsbD_extractLsb']
  rw [fneg_getLsbD x (by omega)]

@[simp] theorem isFinite_fneg (x : Binary64) : isFinite (fneg x) = isFinite x := by simp [isFinite]

@[simp] theorem scaledMagnitude_fneg (x : Binary64) : scaledMagnitude (fneg x) = scaledMagnitude x := by
  simp [scaledMagnitude, significand]

end Sys2Proof.Machine
end

