-- ==== Sys2Proof/Laws/Encoding.lean ====
section
/-! SUPPORT. The byte lanes of a frame, the fields of a request word and the fields of a response word:
what packing puts where. -/

namespace Sys2Proof

/-- Lane i of the packed frame is frame byte i (20_memory.md R32). -/
theorem frameToBits_lane (f : Frame) (i : Fin 14) :
    (frameToBits f).extractLsb' (8 * i.val) 8 = f[i] := by
  unfold frameToBits
  fin_cases i <;>
    · ext j hj
      simp only [BitVec.getElem_extractLsb', BitVec.getLsbD_append, Fin.getElem_fin]
      interval_cases j <;> simp [BitVec.getLsbD_eq_getElem]

/-- Unpacking a packed frame gives it back. -/
theorem bitsToFrame_frameToBits (f : Frame) : bitsToFrame (frameToBits f) = f := by
  ext i hi : 1
  simp only [bitsToFrame, Vector.getElem_ofFn]
  exact frameToBits_lane f ⟨i, hi⟩

/-- Packing the lanes of a field gives the field back. -/
theorem frameToBits_bitsToFrame (b : BitVec 112) : frameToBits (bitsToFrame b) = b := by
  ext j hj
  have hlane := frameToBits_lane (bitsToFrame b) ⟨j / 8, by omega⟩
  simp only [bitsToFrame, Fin.getElem_fin, Vector.getElem_ofFn] at hlane
  have hbit := congrArg (fun x : Byte => x.getLsbD (j % 8)) hlane
  simp only [BitVec.getLsbD_extractLsb', decide_eq_true (show j % 8 < 8 by omega), Bool.true_and,
    show 8 * (j / 8) + j % 8 = j by omega] at hbit
  rw [← BitVec.getLsbD_eq_getElem, ← BitVec.getLsbD_eq_getElem]
  exact hbit

/-! ### Request words (30_encoding.md R42) -/

/-- `REQ[1:0]` of a packed request. -/
theorem reqOp_packRequest (op : BitVec 2) (len : Nat) (data : Frame) :
    reqOp (packRequest op len data) = op := by
  unfold reqOp packRequest
  exact BitVec.extractLsb'_append_eq_right

/-- `REQ[6:2]` of a packed request: the length modulo 32. -/
theorem reqLen_packRequest (op : BitVec 2) (len : Nat) (data : Frame) :
    reqLen (packRequest op len data) = len % 32 := by
  have h : (packRequest op len data).extractLsb' 2 5 = BitVec.ofNat 5 len := by
    unfold packRequest
    rw [BitVec.extractLsb'_append_eq_of_le (by omega), BitVec.extractLsb'_append_eq_of_add_le (by omega)]
    exact BitVec.extractLsb'_eq_self
  simp [reqLen, h]

/-- `REQ[118:7]` of a packed request. -/
theorem reqData_packRequest (op : BitVec 2) (len : Nat) (data : Frame) :
    reqData (packRequest op len data) = data := by
  have h : (packRequest op len data).extractLsb' 7 112 = frameToBits data := by
    unfold packRequest
    repeat rw [BitVec.extractLsb'_append_eq_of_le (by omega)]
    exact BitVec.extractLsb'_eq_self
  rw [reqData, h, bitsToFrame_frameToBits]

/-- A request word is what its fields say. -/
theorem packRequest_fields (w : ReqWord) :
    packRequest (reqOp w) (reqLen w) (reqData w) = w := by
  ext j hj
  rw [← BitVec.getLsbD_eq_getElem, ← BitVec.getLsbD_eq_getElem]
  simp only [packRequest, reqOp, reqLen, reqData, frameToBits_bitsToFrame, BitVec.ofNat_toNat,
    BitVec.setWidth_eq, BitVec.getLsbD_append, BitVec.getLsbD_extractLsb']
  split_ifs <;>
    · rw [decide_eq_true (by omega), Bool.true_and]
      congr 1
      omega

end Sys2Proof

namespace Sys2Proof.Machine

/-! ### Response words (30_encoding.md R47) -/

theorem Response.toWord_status (r : Response) : r.toWord.extractLsb' 0 3 = r.status.code := by
  unfold Response.toWord
  rw [BitVec.extractLsb'_append_eq_of_add_le (by omega)]
  exact BitVec.extractLsb'_eq_self

theorem Response.toWord_plain (r : Response) : r.toWord.extractLsb' 3 112 = frameToBits r.plain := by
  unfold Response.toWord
  repeat rw [BitVec.extractLsb'_append_eq_of_le (by omega)]
  rw [BitVec.extractLsb'_append_eq_of_add_le (by omega)]
  exact BitVec.extractLsb'_eq_self

theorem Response.toWord_neg (r : Response) : r.toWord.extractLsb' 115 1 = BitVec.ofBool r.neg := by
  unfold Response.toWord
  repeat rw [BitVec.extractLsb'_append_eq_of_le (by omega)]
  rw [BitVec.extractLsb'_append_eq_of_add_le (by omega)]
  exact BitVec.extractLsb'_eq_self

theorem Response.toWord_ovf (r : Response) : r.toWord.extractLsb' 116 1 = BitVec.ofBool r.ovf := by
  unfold Response.toWord
  repeat rw [BitVec.extractLsb'_append_eq_of_le (by omega)]
  rw [BitVec.extractLsb'_append_eq_of_add_le (by omega)]
  exact BitVec.extractLsb'_eq_self

theorem Response.toWord_count (r : Response) : r.toWord.extractLsb' 117 14 = r.count := by
  unfold Response.toWord
  repeat rw [BitVec.extractLsb'_append_eq_of_le (by omega)]
  rw [BitVec.extractLsb'_append_eq_of_add_le (by omega)]
  exact BitVec.extractLsb'_eq_self

theorem Response.toWord_dpk (r : Response) : r.toWord.extractLsb' 131 2 = r.dpk := by
  unfold Response.toWord
  repeat rw [BitVec.extractLsb'_append_eq_of_le (by omega)]
  rw [BitVec.extractLsb'_append_eq_of_add_le (by omega)]
  exact BitVec.extractLsb'_eq_self

theorem Response.toWord_mag (r : Response) : r.toWord.extractLsb' 133 64 = r.mag := by
  unfold Response.toWord
  repeat rw [BitVec.extractLsb'_append_eq_of_le (by omega)]
  rw [BitVec.extractLsb'_append_eq_of_add_le (by omega)]
  exact BitVec.extractLsb'_eq_self

theorem Response.toWord_exp (r : Response) : r.toWord.extractLsb' 197 4 = r.exp := by
  unfold Response.toWord
  repeat rw [BitVec.extractLsb'_append_eq_of_le (by omega)]
  rw [BitVec.extractLsb'_append_eq_of_add_le (by omega)]
  exact BitVec.extractLsb'_eq_self

theorem Response.toWord_unit (r : Response) : r.toWord.extractLsb' 201 3 = r.unit := by
  unfold Response.toWord
  repeat rw [BitVec.extractLsb'_append_eq_of_le (by omega)]
  rw [BitVec.extractLsb'_append_eq_of_add_le (by omega)]
  exact BitVec.extractLsb'_eq_self

theorem Response.toWord_scaleDefault (r : Response) : r.toWord.extractLsb' 204 1 = BitVec.ofBool r.scaleDefault := by
  unfold Response.toWord
  repeat rw [BitVec.extractLsb'_append_eq_of_le (by omega)]
  rw [BitVec.extractLsb'_append_eq_of_add_le (by omega)]
  exact BitVec.extractLsb'_eq_self

theorem Response.toWord_aux (r : Response) : r.toWord.extractLsb' 205 8 = r.aux := by
  unfold Response.toWord
  repeat rw [BitVec.extractLsb'_append_eq_of_le (by omega)]
  exact BitVec.extractLsb'_eq_self

end Sys2Proof.Machine
end

