-- ==== Sys2Proof/Laws/Operands.lean ====
section
/-! SUPPORT. What each operand reading and each flag computation answers: one lemma per function, which
proofs cite instead of unfolding it. -/

namespace Sys2Proof.Machine

/-! ### Descrambling one byte -/

/-- Bit i of `rev8 b` is bit 7 - i of `b` (40_descramble.md R61). -/
theorem rev8_bit (b : Byte) (i : Nat) (hi : i < 8) : (rev8 b).getLsbD i = b.getLsbD (7 - i) := by
  unfold rev8
  simp only [BitVec.getLsbD_append, BitVec.getLsbD_extractLsb']
  interval_cases i <;> simp

theorem plainByte_eq (t : Tables) (R : Frame) (p : Fin 14) :
    plainByte t R p = rev8 (R[t.perm[p]] + t.off[p]) := rfl

/-! ### Digits -/

theorem digit_eq_some {b : Byte} {d : Nat} :
    digit b = some d ↔ 0x30 ≤ b.toNat ∧ b.toNat ≤ 0x39 ∧ d = b.toNat - 0x30 := by
  simp only [digit, show digitBias.toNat = 0x30 from rfl, Option.ite_none_right_eq_some,
    Option.some.injEq]
  omega

theorem digit_eq_none {b : Byte} : digit b = none ↔ ¬ (0x30 ≤ b.toNat ∧ b.toNat ≤ 0x39) := by
  simp only [digit, show digitBias.toNat = 0x30 from rfl, ite_eq_right_iff, reduceCtorEq, imp_false]
  omega

theorem digitCount_eq_some {P : Frame} {n : Nat} :
    digitCount P = some n ↔ ∃ d1 d2 d3 d4, digit P[1] = some d1 ∧ digit P[2] = some d2 ∧
      digit P[3] = some d3 ∧ digit P[4] = some d4 ∧ n = 1000 * d1 + 100 * d2 + 10 * d3 + d4 := by
  unfold digitCount
  split
  · rename_i h1 h2 h3 h4
    simp [h1, h2, h3, h4, eq_comm]
  · rename_i h
    simp only [reduceCtorEq, false_iff]
    rintro ⟨d1, d2, d3, d4, h1, h2, h3, h4, -⟩
    exact h d1 d2 d3 d4 h1 h2 h3 h4

theorem digitCount_eq_none {P : Frame} :
    digitCount P = none ↔ digit P[1] = none ∨ digit P[2] = none ∨ digit P[3] = none ∨
      digit P[4] = none := by
  unfold digitCount
  cases digit P[1] <;> cases digit P[2] <;> cases digit P[3] <;> cases digit P[4] <;> simp

/-- A count of four digits is at most 9999 (41_decode.md R77). -/
theorem digitCount_le {P : Frame} {n : Nat} (h : digitCount P = some n) : n ≤ 9999 := by
  obtain ⟨d1, d2, d3, d4, h1, h2, h3, h4, rfl⟩ := digitCount_eq_some.mp h
  have := digit_eq_some.mp h1
  have := digit_eq_some.mp h2
  have := digit_eq_some.mp h3
  have := digit_eq_some.mp h4
  omega

/-! ### Decimal point -/

theorem decimalPlaces_eq_some {b : Byte} {k : Nat} :
    decimalPlaces b = some k ↔ (b = 0x00#8 ∧ k = 0) ∨ (b = 0x34#8 ∧ k = 1) ∨ (b = 0x32#8 ∧ k = 2) ∨
      (b = 0x31#8 ∧ k = 3) := by
  unfold decimalPlaces dpOne dpTen dpHundred dpThousand
  split_ifs with h0 h1 h2 h3
  · subst h0
    simp [eq_comm (a := 0)]
  · subst h1
    simp [eq_comm (a := 1)]
  · subst h2
    simp [eq_comm (a := 2)]
  · subst h3
    simp [eq_comm (a := 3)]
  · simp [h0, h1, h2, h3]

theorem decimalPlaces_eq_none {b : Byte} :
    decimalPlaces b = none ↔ b ∉ [0x00#8, 0x31#8, 0x32#8, 0x34#8] := by
  unfold decimalPlaces dpOne dpTen dpHundred dpThousand
  split_ifs <;> simp_all

/-! ### Scale and unit -/

theorem scaleMatch_some {t : Tables} {b : Byte} {k : ScaleKey} (h : scaleMatch t b = some k) :
    b.extractLsb' 4 4 = t.scaleNib.get k := by
  simpa using List.find?_some h

theorem scaleMatch_none {t : Tables} {b : Byte} :
    scaleMatch t b = none ↔ ∀ k, b.extractLsb' 4 4 ≠ t.scaleNib.get k := by
  simp only [scaleMatch, List.find?_eq_none, decide_eq_true_eq]
  exact ⟨fun h k => h k (by cases k <;> decide), fun h k _ => h k⟩

theorem unitMatch_some {t : Tables} {b : Byte} {u : MeterUnit} (h : unitMatch t b = some u) :
    b = t.unitByte.get u := by
  simpa using List.find?_some h

theorem unitMatch_none {t : Tables} {b : Byte} :
    unitMatch t b = none ↔ ∀ u, b ≠ t.unitByte.get u := by
  simp only [unitMatch, List.find?_eq_none, decide_eq_true_eq]
  exact ⟨fun h u => h u (by cases u <;> decide), fun h u _ => h u⟩

/-! ### Flags -/

theorem overflowFlag_eq_true {P : Frame} :
    overflowFlag P = true ↔ P[1] = 0x3A#8 ∨ P[2] = 0x3A#8 ∨ P[3] = 0x3A#8 ∨ P[4] = 0x3A#8 := by
  simp [overflowFlag, overflowSentinel, or_assoc]

theorem overflowFlag_eq_false {P : Frame} :
    overflowFlag P = false ↔ P[1] ≠ 0x3A#8 ∧ P[2] ≠ 0x3A#8 ∧ P[3] ≠ 0x3A#8 ∧ P[4] ≠ 0x3A#8 := by
  simp [overflowFlag, overflowSentinel, and_assoc]

theorem signFlag_negative (o : SignOther) : signFlag o 0x2D#8 = some true := rfl

theorem signFlag_positive (o : SignOther) : signFlag o 0x2B#8 = some false := by
  simp [signFlag, negativeSentinel, positiveSentinel]

theorem signFlag_other {o : SignOther} {b : Byte} (hn : b ≠ 0x2D#8) (hp : b ≠ 0x2B#8) :
    signFlag o b = match o with
      | .unspecified => none
      | .asPositive => some false := by
  cases o <;> simp [signFlag, negativeSentinel, positiveSentinel, hn, hp]

theorem scaleDefaultFlag_eq_true {m : Option ScaleKey} :
    scaleDefaultFlag m = true ↔ m = none := by
  simp [scaleDefaultFlag]

end Sys2Proof.Machine
end

