-- ==== Sys2Proof/Laws/State.lean ====
section
/-! SUPPORT. One lemma per field and update: of the state's updates, and of the responses the block
builds. -/

namespace Sys2Proof.Machine

/-! ### State updates -/

@[simp] theorem State.respond_config (s : State) (r : Response) :
    (s.respond r).config = s.config := rfl
@[simp] theorem State.respond_requests (s : State) (r : Response) :
    (s.respond r).requests = s.requests := rfl
@[simp] theorem State.respond_responses (s : State) (r : Response) :
    (s.respond r).responses = s.responses ++ [r] := rfl

@[simp] theorem State.presentRequest_config (s : State) (w : ReqWord) :
    (s.presentRequest w).config = s.config := rfl
@[simp] theorem State.presentRequest_requests (s : State) (w : ReqWord) :
    (s.presentRequest w).requests = w :: s.requests.tail := rfl
@[simp] theorem State.presentRequest_responses (s : State) (w : ReqWord) :
    (s.presentRequest w).responses = s.responses := rfl

@[simp] theorem State.withFetchWord_config (s : State) (nbits w : Nat) :
    (s.withFetchWord nbits w).config = s.config := rfl
@[simp] theorem State.withFetchWord_requests (s : State) (nbits w : Nat) :
    (s.withFetchWord nbits w).requests = tableWord nbits w :: s.requests.tail := rfl
@[simp] theorem State.withFetchWord_responses (s : State) (nbits w : Nat) :
    (s.withFetchWord nbits w).responses = s.responses := rfl

@[simp] theorem State.reset_requests : State.reset.requests = [] := rfl
@[simp] theorem State.reset_responses : State.reset.responses = [] := rfl
@[simp] theorem State.reset_config : State.reset.config = Config.device := rfl
@[simp] theorem Config.device_signOther : Config.device.signOther = .unspecified := rfl
@[simp] theorem Config.device_tables : Config.device.tables = Config.deviceTables.tables := rfl
@[simp] theorem Config.device_auxExt : Config.device.auxExt = Config.deviceAuxExt := rfl

/-! ### Responses -/

@[simp] theorem Response.ofStatus_status (st : Status) : (Response.ofStatus st).status = st := rfl
@[simp] theorem Response.ofStatus_plain (st : Status) :
    (Response.ofStatus st).plain = Frame.zero := rfl

@[simp] theorem Response.withPlain_status (r : Response) (P : Frame) :
    (r.withPlain P).status = r.status := rfl
@[simp] theorem Response.withPlain_plain (r : Response) (P : Frame) :
    (r.withPlain P).plain = P := rfl
@[simp] theorem Response.withPlain_neg (r : Response) (P : Frame) :
    (r.withPlain P).neg = r.neg := rfl
@[simp] theorem Response.withPlain_ovf (r : Response) (P : Frame) :
    (r.withPlain P).ovf = r.ovf := rfl
@[simp] theorem Response.withPlain_count (r : Response) (P : Frame) :
    (r.withPlain P).count = r.count := rfl
@[simp] theorem Response.withPlain_dpk (r : Response) (P : Frame) :
    (r.withPlain P).dpk = r.dpk := rfl
@[simp] theorem Response.withPlain_mag (r : Response) (P : Frame) :
    (r.withPlain P).mag = r.mag := rfl
@[simp] theorem Response.withPlain_exp (r : Response) (P : Frame) :
    (r.withPlain P).exp = r.exp := rfl
@[simp] theorem Response.withPlain_unit (r : Response) (P : Frame) :
    (r.withPlain P).unit = r.unit := rfl
@[simp] theorem Response.withPlain_scaleDefault (r : Response) (P : Frame) :
    (r.withPlain P).scaleDefault = r.scaleDefault := rfl
@[simp] theorem Response.withPlain_aux (r : Response) (P : Frame) :
    (r.withPlain P).aux = r.aux := rfl

@[simp] theorem Response.ofMeasurement_status (m : Measurement) :
    (Response.ofMeasurement m).status = .ok := rfl
@[simp] theorem Response.ofMeasurement_plain (m : Measurement) :
    (Response.ofMeasurement m).plain = Frame.zero := rfl
@[simp] theorem Response.ofMeasurement_neg (m : Measurement) :
    (Response.ofMeasurement m).neg = m.neg := rfl
@[simp] theorem Response.ofMeasurement_ovf (m : Measurement) :
    (Response.ofMeasurement m).ovf = m.ovf := rfl
@[simp] theorem Response.ofMeasurement_count (m : Measurement) :
    (Response.ofMeasurement m).count = BitVec.ofNat 14 m.count := rfl
@[simp] theorem Response.ofMeasurement_dpk (m : Measurement) :
    (Response.ofMeasurement m).dpk = BitVec.ofNat 2 m.dpk := rfl
@[simp] theorem Response.ofMeasurement_mag (m : Measurement) :
    (Response.ofMeasurement m).mag = m.mag := rfl
@[simp] theorem Response.ofMeasurement_exp (m : Measurement) :
    (Response.ofMeasurement m).exp = exponentCode m.exp := rfl
@[simp] theorem Response.ofMeasurement_unit (m : Measurement) :
    (Response.ofMeasurement m).unit = unitCode m.unit := rfl
@[simp] theorem Response.ofMeasurement_scaleDefault (m : Measurement) :
    (Response.ofMeasurement m).scaleDefault = m.scaleDefault := rfl
@[simp] theorem Response.ofMeasurement_aux (m : Measurement) :
    (Response.ofMeasurement m).aux = m.aux := rfl

/-- A response that carries a status alone carries no measurement. -/
theorem Response.ofStatus_measurementZero (st : Status) : (Response.ofStatus st).MeasurementZero :=
  ⟨rfl, rfl, rfl, rfl, rfl, rfl, rfl, rfl, rfl⟩

/-- Keeping a plaintext frame does not touch the measurement. -/
theorem Response.withPlain_measurementZero (r : Response) (P : Frame) :
    (r.withPlain P).MeasurementZero ↔ r.MeasurementZero := Iff.rfl

end Sys2Proof.Machine
end

