-- ==== Sys2Proof/Laws/Ops.lean ====
section
/-! SUPPORT. What each shared operation answers. -/

namespace Sys2Proof.Machine

/-! ### Frames -/

@[simp] theorem descrambleFrame_getElem (t : Tables) (R : Frame) (i : Nat) (h : i < 14) :
    (descrambleFrame t R)[i] = plainByte t R ⟨i, h⟩ := by
  simp [descrambleFrame]

/-- Every turn of SCRAMBLE's loop that is still to come leaves a position alone that it does not
address. -/
theorem foldl_scrambleByte_other (t : Tables) (P : Frame) (l : List (Fin 14)) (R : Frame) (j : Nat)
    (hj : j < 14) (h : ∀ p ∈ l, (t.perm[p]).val ≠ j) :
    (l.foldl (scrambleByte t P) R)[j] = R[j] := by
  induction l generalizing R with
  | nil => rfl
  | cons p l ih =>
    rw [List.foldl_cons, ih _ fun q hq => h q (List.mem_cons_of_mem _ hq)]
    exact Vector.getElem_set_ne _ _ (h p List.mem_cons_self)

/-- SCRAMBLE puts the scrambled byte of plaintext position p at raw position `PERM[p]`
(40_descramble.md R68). -/
theorem scrambleFrame_getElem {t : Tables} (P : Frame) (ht : t.PermBijective) (p : Fin 14) :
    (scrambleFrame t P)[t.perm[p]] = sub8 (rev8 P[p]) t.off[p] := by
  have distinct : ∀ q : Fin 14, (t.perm[q]).val = (t.perm[p]).val → q = p := fun q hq =>
    Fin.ext ((List.Nodup.getElem_inj_iff ht (i := q.val) (j := p.val) (hi := by simp)
      (hj := by simp)).mp (by simpa using Fin.ext hq))
  have loop : ∀ (l : List (Fin 14)) (R : Frame), l.Nodup → p ∈ l →
      (l.foldl (scrambleByte t P) R)[(t.perm[p]).val] = sub8 (rev8 P[p]) t.off[p] := by
    intro l
    induction l with
    | nil => intro R _ h; cases h
    | cons q l ih =>
      intro R hn hm
      rw [List.nodup_cons] at hn
      rw [List.foldl_cons]
      by_cases hq : p ∈ l
      · exact ih _ hn.2 hq
      · obtain rfl : p = q := by simpa [hq] using hm
        rw [foldl_scrambleByte_other]
        · simp [scrambleByte]
        · exact fun r hr hrr => hq (distinct r hrr ▸ hr)
  exact loop _ _ (List.nodup_finRange 14) (List.mem_finRange p)

/-! ### Decoding -/

/-- Steps 2 to 5 read bytes 1 to 4, and byte 6 only without overflow (41_decode.md R74 to R76). -/
theorem readMagnitude_congr {P Q : Frame} (h1 : P[1] = Q[1]) (h2 : P[2] = Q[2]) (h3 : P[3] = Q[3])
    (h4 : P[4] = Q[4]) (h6 : overflowFlag P = true ∨ P[6] = Q[6]) :
    readMagnitude P = readMagnitude Q := by
  have ho : overflowFlag P = overflowFlag Q := by simp only [overflowFlag, h1, h2, h3, h4]
  have hd : digitCount P = digitCount Q := by simp only [digitCount, h1, h2, h3, h4]
  rcases h6 with h6 | h6
  · simp [readMagnitude, ← ho, h6]
  · simp only [readMagnitude, ho, hd, h6]

theorem readMagnitude_overflow {P : Frame} (h : overflowFlag P = true) :
    readMagnitude P = .ok ⟨true, 0, 0, posInf⟩ := by
  simp [readMagnitude, h]

theorem readMagnitude_badDigit {P : Frame} (h : overflowFlag P = false) (hd : digitCount P = none) :
    readMagnitude P = .error .invalidDigit := by
  simp [readMagnitude, h, hd]

theorem readMagnitude_badPoint {P : Frame} {n : Nat} (h : overflowFlag P = false)
    (hd : digitCount P = some n) (hp : decimalPlaces P[6] = none) :
    readMagnitude P = .error .invalidDecimalPoint := by
  simp [readMagnitude, h, hd, hp]

theorem readMagnitude_digits {P : Frame} {n k : Nat} (h : overflowFlag P = false)
    (hd : digitCount P = some n) (hp : decimalPlaces P[6] = some k) :
    readMagnitude P = .ok ⟨false, n, k, unsignedMagnitude n k⟩ := by
  simp [readMagnitude, h, hd, hp]

/-- Everything steps 2 to 5 can answer. -/
theorem readMagnitude_cases (P : Frame) :
    (overflowFlag P = true ∧ readMagnitude P = .ok ⟨true, 0, 0, posInf⟩) ∨
    (overflowFlag P = false ∧ digitCount P = none ∧ readMagnitude P = .error .invalidDigit) ∨
    (∃ n, overflowFlag P = false ∧ digitCount P = some n ∧ decimalPlaces P[6] = none ∧
      readMagnitude P = .error .invalidDecimalPoint) ∨
    (∃ n k, overflowFlag P = false ∧ digitCount P = some n ∧ decimalPlaces P[6] = some k ∧
      readMagnitude P = .ok ⟨false, n, k, unsignedMagnitude n k⟩) := by
  cases ho : overflowFlag P with
  | true => exact .inl ⟨rfl, readMagnitude_overflow ho⟩
  | false =>
    cases hd : digitCount P with
    | none => exact .inr (.inl ⟨rfl, rfl, readMagnitude_badDigit ho hd⟩)
    | some n =>
      cases hp : decimalPlaces P[6] with
      | none => exact .inr (.inr (.inl ⟨n, rfl, rfl, rfl, readMagnitude_badPoint ho hd hp⟩))
      | some k => exact .inr (.inr (.inr ⟨n, k, rfl, rfl, rfl, readMagnitude_digits ho hd hp⟩))

/-- The record that the steps after the magnitude build from a reading and a sign. -/
def recordOf (c : Config) (P : Frame) (r : Reading) (neg : Bool) : Measurement where
  neg := neg
  ovf := r.ovf
  count := r.count
  dpk := r.dpk
  mag := signedMagnitude neg r.mag
  exp := scaleExponent (scaleMatch c.tables P[9])
  unit := unitMatch c.tables P[10]
  scaleDefault := scaleDefaultFlag (scaleMatch c.tables P[9])
  aux := P[11]

theorem decodeFrame_empty (c : Config) {P : Frame} (h : P[0] = 0x00#8) :
    decodeFrame c P = .error .emptyFrame := by
  simp [decodeFrame, emptySentinel, h]

theorem decodeFrame_badReading (c : Config) {P : Frame} {st : Status} (h : P[0] ≠ 0x00#8)
    (hr : readMagnitude P = .error st) : decodeFrame c P = .error st := by
  simp [decodeFrame, emptySentinel, h, hr]

theorem decodeFrame_badSign {c : Config} {P : Frame} {r : Reading} (h : P[0] ≠ 0x00#8)
    (hr : readMagnitude P = .ok r) (hs : signFlag c.signOther P[0] = none) :
    decodeFrame c P = .error .unspecifiedSign := by
  simp [decodeFrame, emptySentinel, h, hr, hs]

theorem decodeFrame_record {c : Config} {P : Frame} {r : Reading} {neg : Bool} (h : P[0] ≠ 0x00#8)
    (hr : readMagnitude P = .ok r) (hs : signFlag c.signOther P[0] = some neg) :
    decodeFrame c P = .ok (recordOf c P r neg) := by
  simp [decodeFrame, emptySentinel, h, hr, hs, recordOf]

/-- Everything the ten steps can answer. -/
theorem decodeFrame_cases (c : Config) (P : Frame) :
    (P[0] = 0x00#8 ∧ decodeFrame c P = .error .emptyFrame) ∨
    (∃ st, P[0] ≠ 0x00#8 ∧ readMagnitude P = .error st ∧ decodeFrame c P = .error st) ∨
    (∃ r, P[0] ≠ 0x00#8 ∧ readMagnitude P = .ok r ∧ signFlag c.signOther P[0] = none ∧
      decodeFrame c P = .error .unspecifiedSign) ∨
    (∃ r neg, P[0] ≠ 0x00#8 ∧ readMagnitude P = .ok r ∧ signFlag c.signOther P[0] = some neg ∧
      decodeFrame c P = .ok (recordOf c P r neg)) := by
  by_cases h : P[0] = 0x00#8
  · exact .inl ⟨h, decodeFrame_empty c h⟩
  · cases hr : readMagnitude P with
    | error st => exact .inr (.inl ⟨st, h, rfl, decodeFrame_badReading c h hr⟩)
    | ok r =>
      cases hs : signFlag c.signOther P[0] with
      | none => exact .inr (.inr (.inl ⟨r, h, rfl, rfl, decodeFrame_badSign h hr hs⟩))
      | some neg => exact .inr (.inr (.inr ⟨r, neg, h, rfl, rfl, decodeFrame_record h hr hs⟩))

/-! ### Answers -/

theorem answerDescramble_frame (c : Config) (R : Frame) :
    answerDescramble c 14 R = (Response.ofStatus .ok).withPlain (descrambleFrame c.tables R) := rfl

theorem answerDescramble_length (c : Config) {len : Nat} (R : Frame) (h : len ≠ 14) :
    answerDescramble c len R = Response.ofStatus .frameLengthMismatch := by
  simp [answerDescramble, h]

theorem answerDecode_frame (c : Config) (P : Frame) :
    answerDecode c 14 P = Response.ofDecode (decodeFrame c P) := rfl

theorem answerDecode_length (c : Config) {len : Nat} (P : Frame) (h : len ≠ 14) :
    answerDecode c len P = Response.ofStatus .frameLengthMismatch := by
  simp [answerDecode, h]

theorem answerDescrambleDecode_frame (c : Config) (R : Frame) :
    answerDescrambleDecode c 14 R =
      (Response.ofDecode (decodeFrame c (descrambleFrame c.tables R))).withPlain
        (descrambleFrame c.tables R) := rfl

theorem answerDescrambleDecode_length (c : Config) {len : Nat} (R : Frame) (h : len ≠ 14) :
    answerDescrambleDecode c len R = Response.ofStatus .frameLengthMismatch := by
  simp [answerDescrambleDecode, h]

/-! ### Ports -/

theorem State.takeRequest_nil {s : State} (h : s.requests = []) : s.takeRequest = none := by
  simp [State.takeRequest, h]

theorem State.takeRequest_cons {s : State} {w : ReqWord} {rest : List ReqWord}
    (h : s.requests = w :: rest) : s.takeRequest = some (w, { s with requests := rest }) := by
  simp [State.takeRequest, h]

end Sys2Proof.Machine
end

