-- ==== Sys2Proof/Laws/PerInstr.lean ====
section
/-! SUPPORT. Laws made per instruction: the fields of an instruction's own request word. -/

namespace Sys2Proof.Laws.EncodedFields

/-- The request word of an instruction carries its operation code, its length (modulo 32) and its
data lanes in the fields of 30_encoding.md R42. -/
def Statement (i : Instr) : Prop :=
  reqOp (encode i) = i.opcode ∧ reqLen (encode i) = i.len % 32 ∧ reqData (encode i) = i.data

theorem descramble (len : Nat) (data : Frame) : Statement (.descramble len data) :=
  ⟨reqOp_packRequest .., reqLen_packRequest .., reqData_packRequest ..⟩

theorem decode (len : Nat) (data : Frame) : Statement (.decode len data) :=
  ⟨reqOp_packRequest .., reqLen_packRequest .., reqData_packRequest ..⟩

theorem descrambleDecode (len : Nat) (data : Frame) : Statement (.descrambleDecode len data) :=
  ⟨reqOp_packRequest .., reqLen_packRequest .., reqData_packRequest ..⟩

end Sys2Proof.Laws.EncodedFields
end

