-- ==== Sys2Proof/Laws/Step.lean ====
section
/-! SUPPORT. What one step can do. -/

namespace Sys2Proof.Machine

/-- The response to what a request word says, in a block with a given configuration. -/
def answerOf (c : Config) : Decoded → Response
  | .instr (.descramble len data) => answerDescramble c len data
  | .instr (.decode len data) => answerDecode c len data
  | .instr (.descrambleDecode len data) => answerDescrambleDecode c len data
  | .reservedOp => answerReserved

/-- Every operation issues exactly its response and changes nothing else. -/
theorem exec_eq_respond (i : Instr) (s : State) :
    exec i s = .next (s.respond (answerOf s.config (.instr i))) := by
  cases i <;> rfl

/-- With a request at the input, a step takes it and issues its response; with none, nothing happens. -/
theorem step_cases (s : State) :
    (s.requests = [] ∧ step s = .next s) ∨
    (∃ w rest, s.requests = w :: rest ∧
      step s = .next (State.respond { s with requests := rest } (answerOf s.config (decode w)))) := by
  cases h : s.requests with
  | nil => exact .inl ⟨rfl, by simp [step, State.takeRequest_nil h]⟩
  | cons w rest =>
    refine .inr ⟨w, rest, rfl, ?_⟩
    simp only [step, State.takeRequest_cons h]
    cases hd : decode w with
    | instr i => exact exec_eq_respond i _
    | reservedOp => rfl

theorem run_zero (s : State) : Host.Core.run Sys2Proof.core 0 s = .next s := rfl

/-- One step more of a run. -/
theorem run_succ {s t : State} (k : Nat) (h : step s = .next t) :
    Host.Core.run Sys2Proof.core (k + 1) s = Host.Core.run Sys2Proof.core k t := by
  have hs : Sys2Proof.core.step s = .next t := h
  exact (Host.Core.run.eq_2 Sys2Proof.core s k).trans (by rw [hs])

end Sys2Proof.Machine
end

