-- ==== Sys2Proof/Tests/Slice0.lean ====
section
/-! SUPPORT. Tests whose expected results come from spec/95_test_vectors.md and from the rules, and one
witness for the hypotheses of each statement of Certificates/Slice0/Obligations.lean. -/

namespace Sys2Proof.Tests

open Sys2Proof.Machine

/-! ### A small state -/

/-- The TEST KEY of 95_test_vectors.md section 2 with scale nibbles and unit bytes made up for the
tests (no device's values). -/
def testTables : Tables where
  perm := #v[3, 8, 13, 4, 9, 0, 5, 10, 1, 6, 11, 2, 7, 12]
  off := #v[0x05, 0x16, 0x27, 0x38, 0x49, 0x5A, 0x6B, 0x7C, 0x8D, 0x9E, 0xAF, 0xC0, 0xD1, 0xE2]
  scaleNib := ⟨0x9, 0x5, 0x3, 0x2⟩
  unitByte := ⟨0x11, 0x12, 0x13, 0x14, 0x15, 0x16⟩

/-- A block with the test tables and a given `SIGN_OTHER`, no response issued yet. -/
def testState (o : SignOther) (requests : List ReqWord) : State where
  config := ⟨testTables, .sext8, o⟩
  requests := requests
  responses := []

/-- The response words of the state that an outcome ends in. -/
def wordsOf : Host.Outcome State Fault Refusal → List RspWord
  | .next s => s.responses.map Response.toWord
  | .fault _ => []
  | .refused _ => []

/-- The plaintext of Scenario A (95_test_vectors.md W-A). -/
def frameA : Frame := #v[0x2B, 0x31, 0x32, 0x33, 0x34, 0, 0, 0, 0, 0, 0x80, 0, 0, 0]

/-- The raw frame of Scenario A under the TEST KEY (DS-4). -/
def rawA : Frame :=
  #v[0xA6, 0x73, 0x40, 0xCF, 0x94, 0x95, 0x62, 0x2F, 0x76, 0xE3, 0x84, 0x52, 0x1E, 0x25]

/-- The request word of W-A, and those of DD-1 and of the split pipeline's first step on the same raw
frame. -/
def wordA : ReqWord := 0x0000004000000000001A19991895B9#119

theorem test_testTables_wellFormed : testTables.WellFormed := by decide

/-! ### Well-formedness: one ill-formed term for each check -/

theorem test_wellFormed_refuses_length_32 : ¬ (Instr.decode 32 frameA).WellFormed := by decide
theorem test_wellFormed_refuses_repeated_position :
    ¬ { testTables with perm := testTables.perm.set 0 8 }.PermBijective := by decide
theorem test_wellFormed_refuses_rotation :
    ¬ { testTables with perm := #v[5, 6, 7, 8, 9, 10, 11, 12, 13, 0, 1, 2, 3, 4] }.PermNotRotation := by
  decide
theorem test_wellFormed_refuses_repeated_offset :
    ¬ { testTables with off := testTables.off.set 13 0x05 }.OffDistinct := by decide
theorem test_wellFormed_refuses_repeated_nibble :
    ¬ { testTables with scaleNib := ⟨0x9, 0x5, 0x9, 0x2⟩ }.ScaleDistinct := by decide
theorem test_wellFormed_refuses_nibble_zero :
    ¬ { testTables with scaleNib := ⟨0x9, 0x5, 0x3, 0x0⟩ }.ScaleNonzero := by decide
theorem test_wellFormed_refuses_unit_byte_of_v :
    ¬ { testTables with unitByte := ⟨0x11, 0x80, 0x13, 0x14, 0x15, 0x16⟩ }.UnitDistinct := by decide
theorem test_config_wellFormed_refuses_ill_formed_tables :
    ¬ (Config.mk { testTables with scaleNib := ⟨0x9, 0x5, 0x3, 0x0⟩ } .sext8 .unspecified).WellFormed := by
  decide

/-! ### Decoding: each constructor from a word written out field by field (30_encoding.md R42, R43) -/

/-- data lanes 13 down to 0, `len` = 14, `op` = 0b00. -/
theorem test_decode_descramble :
    decode (0x0D#8 ++ 0x0C#8 ++ 0x0B#8 ++ 0x0A#8 ++ 0x09#8 ++ 0x08#8 ++ 0x07#8 ++ 0x06#8 ++ 0x05#8 ++
      0x04#8 ++ 0x03#8 ++ 0x02#8 ++ 0x01#8 ++ 0x00#8 ++ 0b01110#5 ++ 0b00#2) =
    .instr (.descramble 14 #v[0, 1, 2, 3, 4, 5, 6, 7, 8, 9, 10, 11, 12, 13]) := by decide

/-- `len` = 13, `op` = 0b01. -/
theorem test_decode_decode :
    decode (0x80#8 ++ 0x00#8 ++ 0x00#8 ++ 0x00#8 ++ 0x00#8 ++ 0x00#8 ++ 0x00#8 ++ 0x00#8 ++ 0x00#8 ++
      0x00#8 ++ 0x00#8 ++ 0x00#8 ++ 0x00#8 ++ 0x2B#8 ++ 0b01101#5 ++ 0b01#2) =
    .instr (.decode 13 #v[0x2B, 0, 0, 0, 0, 0, 0, 0, 0, 0, 0, 0, 0, 0x80]) := by decide

/-- `len` = 31, `op` = 0b10. -/
theorem test_decode_descrambleDecode :
    decode (0x00#8 ++ 0x00#8 ++ 0x00#8 ++ 0x00#8 ++ 0x00#8 ++ 0x00#8 ++ 0x00#8 ++ 0x00#8 ++ 0x00#8 ++
      0x00#8 ++ 0x00#8 ++ 0x00#8 ++ 0xFF#8 ++ 0x01#8 ++ 0b11111#5 ++ 0b10#2) =
    .instr (.descrambleDecode 31 #v[0x01, 0xFF, 0, 0, 0, 0, 0, 0, 0, 0, 0, 0, 0, 0]) := by
  decide

/-- Every other bit set, `op` = 0b11: the reserved operation (R44). -/
theorem test_decode_reserved : decode (0xFFFFFFFFFFFFFFFFFFFFFFFFFFFF#112 ++ 0b11111#5 ++ 0b11#2) =
    .reservedOp := by decide

/-- The opcode table's numbering: the mask covers bits 1..0 of the word. -/
theorem test_decodeTableWord : decodeTableWord 8 0x01 = some (.decode 0 Frame.zero) ∧
    decodeTableWord 119 0x0000004000000000001A19991895B9 = some (.decode 14 frameA) ∧
    decodeTableWord 8 0x03 = none := by decide

/-- The assembler's line of program P1 step 3, and the `.len=13` line of P4 step 5, whose lane 13 is
zero. -/
theorem test_assemble :
    assemble (.decode [0x2B, 0x31, 0x32, 0x33, 0x34, 0, 0, 0, 0, 0, 0x80, 0, 0, 0]) = some wordA ∧
    assemble (.decodeLen 13 [0x2B, 0x31, 0x32, 0x33, 0x34, 0, 0, 0, 0, 0, 0x80, 0, 0]) =
      some 0x0000004000000000001A19991895B5#119 := by decide +kernel

/-! ### binary64: the examples of 41_decode.md R78 and DV-13, DV-25 -/

theorem test_fdiv : unsignedMagnitude 1234 0 = 0x4093480000000000#64 ∧
    unsignedMagnitude 1234 1 = 0x405ED9999999999A#64 ∧
    unsignedMagnitude 1234 2 = 0x4028AE147AE147AE#64 ∧
    unsignedMagnitude 1234 3 = 0x3FF3BE76C8B43958#64 ∧
    unsignedMagnitude 9999 3 = 0x4023FF7CED916873#64 ∧
    unsignedMagnitude 1 3 = 0x3F50624DD2F1A9FC#64 := by decide +kernel

/-- A tie goes to the even significand: 2^53 + 1 lies halfway between 2^53 and 2^53 + 2. -/
theorem test_f64_tie : f64 (2 ^ 53 + 1) = f64 (2 ^ 53) ∧ f64 (2 ^ 53 + 3) = f64 (2 ^ 53 + 4) := by
  decide +kernel

/-! ### One step of each operation -/

/-- Program P3 step 1. -/
theorem test_descramble_response :
    wordsOf (step (testState .unspecified [0x728F294251FB17B110EA579FB9D338#119])) =
      [0x000000000000000000000000000007FC000000018801B981818168#213] := by decide

/-- DS-2: every addition wraps. -/
theorem test_descramble_wraps : descrambleFrame testTables (Vector.replicate 14 0xFF#8) =
    #v[0x20, 0xA8, 0x64, 0xEC, 0x12, 0x9A, 0x56, 0xDE, 0x31, 0xB9, 0x75, 0xFD, 0x0B, 0x87] := by
  decide

/-- Program P4 step 7: overflow with the negative sign, minus infinity. -/
theorem test_decode_overflow_negative :
    wordsOf (step (testState .unspecified [0x0000004000000000001A19991D16B9#119])) =
      [0x00121FFE0000000000000000180000000000000000000000000000#213] := by decide

/-- P4 step 2: a bad digit and a bad decimal point, INVALID_DIGIT. -/
theorem test_decode_badDigit :
    wordsOf (step (testState .unspecified [0x000000400000001A801A10191895B9#119])) = [3#213] := by
  decide

/-- DD-4: -0.007 with auxiliary byte 0xFF. -/
theorem test_descrambleDecode_response :
    wordsOf (step (testState .unspecified [0x728F294251FB17B110EA579FB9D33A#119])) =
      [0x1FF217EF95810624DD2F3800E80007FC000000018801B981818168#213] := by decide +kernel

/-- Program P2 step 1 (DD-2): EMPTY_FRAME with the plaintext in the response. -/
theorem test_descrambleDecode_empty :
    wordsOf (step (testState .unspecified [0x128F294271BB17B14ACA7DA039D33A#119])) =
      [0x00000000000000000000000000000004000000000001A199918802#213] := by decide

/-- P4 step 6: the reserved operation. -/
theorem test_reserved : wordsOf (step (testState .unspecified [0x3#119])) = [7#213] := by
  decide

/-- The step that a table word stands for runs as the first step after reset: DECODE with `len = 0`. -/
theorem test_first_step_after_reset :
    wordsOf (step (State.reset.withFetchWord 8 0x01)) = [1#213] := by decide

/-! ### Witnesses: a concrete input that meets the hypotheses of each statement -/

/-- A frame that meets the hypotheses of the statements on a reading: W-A with a given byte 0 and byte
6. -/
def frameWith (b0 b6 : Byte) : Frame := (frameA.set 0 b0).set 6 b6

/-- A frame with the overflow sentinel in byte 4. -/
def overflowFrame (b0 : Byte) : Frame := (frameA.set 0 b0).set 4 0x3A#8

theorem witness_DecodeOfEncodeIsTheInstruction :
    (Instr.descramble 0 rawA).WellFormed ∧ (Instr.decode 14 frameA).WellFormed ∧
    (Instr.descrambleDecode 31 rawA).WellFormed := by decide

theorem witness_EncodeOfDecodeIsTheWord : decode wordA = .instr (.decode 14 frameA) := by decide

theorem witness_RequestFieldsStandWhereR42PutsThem :
    (3#119).toNat % 4 = 3 ∧
    (decode 0#119 = .instr (.descramble 0 Frame.zero) ∧ (0#119).toNat % 4 = 0) ∧
    (decode wordA = .instr (.decode 14 frameA) ∧ wordA.toNat % 4 = 1) ∧
    (decode 126#119 = .instr (.descrambleDecode 31 Frame.zero) ∧ (126#119).toNat % 4 = 2) := by
  decide

theorem witness_ResponseWordDeterminesTheResponse :
    ∃ r r' : Response, r.toWord = r'.toWord := ⟨_, _, rfl (a := answerReserved.toWord)⟩

theorem witness_AssemblerLinesEncodeTheirRequests :
    (31 ≤ 31 ∧ frameA.toList.length = min 31 14) ∧ (0 ≤ 31 ∧ ([] : List Byte).length = min 0 14) ∧
    (13 ≤ 31 ∧ (frameA.toList.take 13).length = min 13 14) ∧ (frameA.toList.take 13).length ≠ 14 := by
  decide

theorem witness_StepRunsTheRequestedOperation :
    (testState .unspecified [wordA]).requests = wordA :: [] ∧
    decode wordA = .instr (.decode 14 frameA) := by decide

theorem witness_ReservedOperationIsAnswered :
    (testState .unspecified [0x7F#119]).requests = 0x7F#119 :: [] ∧
    (0x7F#119).extractLsb' 0 2 = 0b11#2 := by decide

theorem witness_NoRequestNoChange : (testState .unspecified []).requests = [] := rfl

theorem witness_OneFunctionGivesEveryResponse :
    (testState .unspecified [wordA, 3#119]).requests = wordA :: [3#119] := rfl

theorem witness_EarlierRequestsDoNotMatter :
    ∃ s t : State, s.config.tables = t.config.tables ∧ s.config.signOther = t.config.signOther ∧
      s.requests = wordA :: [] ∧ t.requests = wordA :: [3#119] ∧ s.responses ≠ t.responses :=
  ⟨testState .unspecified [wordA],
    { testState .unspecified [wordA, 3#119] with responses := [answerReserved] },
    rfl, rfl, rfl, rfl, by decide⟩

theorem witness_RequestOrderRearrangesTheResponses :
    (testState .unspecified [wordA, 3#119]).requests.Perm
      (testState .unspecified [3#119, wordA]).requests := List.Perm.swap _ _ _

theorem witness_RepeatedRequestRepeatsItsResponse :
    (testState .unspecified [wordA, wordA]).requests = wordA :: wordA :: [] := rfl

theorem witness_FirstResponseAfterReset :
    ∃ s : State, s.config = State.reset.config ∧ s.requests = wordA :: [] ∧ s.responses ≠ [] :=
  ⟨{ config := Config.device, requests := [wordA], responses := [answerReserved] }, rfl, rfl,
    by simp⟩

theorem witness_WrongLengthIsRejectedUnread :
    (Instr.descramble 13 rawA).len ≠ 14 ∧ (Instr.decode 0 frameA).len ≠ 14 ∧
    (Instr.descrambleDecode 31 rawA).len ≠ 14 := by decide

theorem witness_DescrambleUndoesScramble :
    (testState .unspecified []).config.tables.PermBijective := by decide

theorem witness_DescrambleIsABijection : testTables.PermBijective := by decide

theorem witness_ScrambledFrameIsReadAsItsPlaintext :
    (testState .asPositive []).config.tables.PermBijective ∧ scrambleFrame testTables frameA = rawA := by
  decide

/-- One frame for each clause of the case split of R91. -/
theorem witness_DecodeReportsTheFirstFailure :
    (frameWith 0x00 0x00)[0] = 0x00#8 ∧
    ((overflowFrame 0x41)[0] ≠ 0x00#8 ∧ Overflows (overflowFrame 0x41) ∧
      SignUnspecified (testState .unspecified []) (overflowFrame 0x41)) ∧
    ((overflowFrame 0x41)[0] ≠ 0x00#8 ∧ Overflows (overflowFrame 0x41) ∧
      ¬ SignUnspecified (testState .asPositive []) (overflowFrame 0x41)) ∧
    (frameA[0] ≠ 0x00#8 ∧ ¬ Overflows (frameA.set 4 0x3B) ∧ ¬ DigitsValid (frameA.set 4 0x3B)) ∧
    (¬ Overflows (frameWith 0x2B 0x30) ∧ DigitsValid (frameWith 0x2B 0x30) ∧
      ¬ PointValid (frameWith 0x2B 0x30)) ∧
    (DigitsValid (frameWith 0x41 0x31) ∧ PointValid (frameWith 0x41 0x31) ∧
      SignUnspecified (testState .unspecified []) (frameWith 0x41 0x31)) ∧
    (DigitsValid (frameWith 0x2D 0x34) ∧ PointValid (frameWith 0x2D 0x34) ∧
      ¬ SignUnspecified (testState .unspecified []) (frameWith 0x2D 0x34)) := by decide

theorem witness_ZeroByteZeroIsAnEmptyFrame : (frameWith 0x00 0xFF)[0] = 0x00#8 := by decide

theorem witness_FailedDecodeCarriesOnlyItsStatus :
    (answerDecode (testState .unspecified []).config 14 (frameWith 0x2B 0x30)).status ≠ .ok := by
  decide

theorem witness_OverflowGivesInfinity :
    (∀ b ∈ [0x2B#8, 0x2D#8], Overflows (overflowFrame b) ∧ (overflowFrame b)[0] = b ∧
      (answerDecode (testState .unspecified []).config 14 (overflowFrame b)).status = .ok) ∧
    (Overflows (overflowFrame 0x41) ∧
      (answerDecode (testState .asPositive []).config 14 (overflowFrame 0x41)).status = .ok) ∧
    ¬ Overflows frameA := by decide

/-- One byte 6 for each clause: the four selectors, and 0x33 and 0x35 beside them. -/
theorem witness_PointByteSelectsTheDivisor :
    (∀ b ∈ [0x00#8, 0x31#8, 0x32#8, 0x34#8, 0x33#8, 0x35#8],
      (frameWith 0x2B b)[0] ≠ 0x00#8 ∧ ¬ Overflows (frameWith 0x2B b) ∧
      DigitsValid (frameWith 0x2B b) ∧ (frameWith 0x2B b)[6] = b) ∧
    (∀ b ∈ [0x00#8, 0x31#8, 0x32#8, 0x34#8],
      (answerDecode (testState .unspecified []).config 14 (frameWith 0x2B b)).status = .ok) := by
  decide +kernel

/-- The largest and the smallest reading, with the first and the last selector, and a sign byte that is
read as positive. -/
theorem witness_DigitsGiveTheReading :
    (let P : Frame := #v[0x41, 0x39, 0x39, 0x39, 0x39, 0, 0x00, 0, 0, 0, 0, 0, 0, 0];
      (∀ b ∈ [P[1], P[2], P[3], P[4]], b = BitVec.ofNat 8 (0x30 + (9 : Fin 10).val)) ∧
      P[6] = #v[0x00#8, 0x34#8, 0x32#8, 0x31#8][(0 : Fin 4)] ∧ P[0] ≠ 0x00#8 ∧
      ¬ SignUnspecified (testState .asPositive []) P) ∧
    (let P : Frame := #v[0x2D, 0x30, 0x30, 0x30, 0x30, 0, 0x31, 0, 0, 0, 0, 0, 0, 0];
      (∀ b ∈ [P[1], P[2], P[3], P[4]], b = BitVec.ofNat 8 (0x30 + (0 : Fin 10).val)) ∧
      P[6] = #v[0x00#8, 0x34#8, 0x32#8, 0x31#8][(3 : Fin 4)] ∧ P[0] = 0x2D#8 ∧
      ¬ SignUnspecified (testState .unspecified []) P) := by decide

theorem witness_NegativeSignOnlyNegates :
    (answerDecode (testState .unspecified []).config 14 (frameA.set 0 0x2B#8)).status = .ok := by
  decide

theorem witness_OtherSignBytesFollowSignOther :
    (frameWith 0x41 0x00)[0] ∉ [0x00#8, 0x2B#8, 0x2D#8] ∧
    (testState .asPositive []).config.signOther = .asPositive ∧
    (testState .unspecified []).config.signOther = .unspecified ∧
    (answerDecode (testState .unspecified []).config 14 (frameWith 0x2B 0x00)).status = .ok ∧
    (answerDecode (testState .unspecified []).config 14 (frameWith 0x2B 0x30)).status ≠ .ok := by
  decide

/-- A byte 9 for each clause: the four nibbles of the test tables, and a nibble that matches none. -/
theorem witness_ScaleNibbleSelectsTheExponent :
    testTables.ScaleDistinct ∧
    (∀ b ∈ [0x9F#8, 0x50#8, 0x3A#8, 0x20#8, 0x00#8, 0xF0#8],
      (answerDecode (testState .unspecified []).config 14 (frameA.set 9 b)).status = .ok) ∧
    (0x9F#8).toNat / 16 = testTables.scaleNib.micro.toNat ∧
    (0x50#8).toNat / 16 = testTables.scaleNib.milli.toNat ∧
    (0x3A#8).toNat / 16 = testTables.scaleNib.kilo.toNat ∧
    (0x20#8).toNat / 16 = testTables.scaleNib.mega.toNat ∧
    (∀ k ∈ ScaleKey.all, (0xF0#8).toNat / 16 ≠ (testTables.scaleNib.get k).toNat) := by decide

/-- The seven unit bytes, and a byte 10 that matches none. -/
theorem witness_UnitByteSelectsTheUnit :
    testTables.UnitDistinct ∧
    (∀ b ∈ [0x11#8, 0x80#8, 0x12#8, 0x13#8, 0x14#8, 0x15#8, 0x16#8, 0x00#8],
      (answerDecode (testState .unspecified []).config 14 (frameA.set 10 b)).status = .ok) ∧
    MeterUnit.all.map testTables.unitByte.get =
      [0x11#8, 0x80#8, 0x12#8, 0x13#8, 0x14#8, 0x15#8, 0x16#8] ∧
    (∀ u ∈ MeterUnit.all, 0x00#8 ≠ testTables.unitByte.get u) := by decide

theorem witness_AuxiliaryByteIsCopiedAndIndependent :
    (answerDecode (testState .unspecified []).config 14 (frameA.set 11 0x80#8)).status = .ok ∧
    (testState .unspecified []).config.auxExt = .sext8 ∧
    (Config.mk testTables .zext8 .unspecified).auxExt = .zext8 ∧ (0x7F#8).toNat ≤ 0x7F := by
  decide

/-- DV-22 beside DV-1, an overflow pair that differs in byte 6, and two empty frames. -/
theorem witness_UnreadBytesDoNotMatter :
    (let Q : Frame := #v[0x2B, 0x31, 0x32, 0x33, 0x34, 0xFF, 0, 0xFF, 0xFF, 0x0F, 0x80, 0, 0xFF, 0xFF];
      frameA[0] = Q[0] ∧ frameA[6] = Q[6] ∧ frameA[9].toNat / 16 = Q[9].toNat / 16 ∧ frameA[10] = Q[10]) ∧
    (Overflows (overflowFrame 0x2B) ∧ (overflowFrame 0x2B)[6] ≠ ((overflowFrame 0x2B).set 6 0xFF)[6]) ∧
    (frameWith 0x00 0x00)[0] = 0x00#8 := by decide

theorem witness_EachOperationFillsOnlyItsFields :
    (Instr.descramble 15 rawA).len ≠ 14 ∧
    (answerDecode (testState .unspecified []).config 14 (frameWith 0x00 0x00)).status ≠ .ok ∧
    (answerDecode (testState .unspecified []).config 13 frameA).status = .frameLengthMismatch := by
  decide

theorem witness_TestKeyVectors :
    (testState .unspecified []).config.tables.perm = #v[3, 8, 13, 4, 9, 0, 5, 10, 1, 6, 11, 2, 7, 12] ∧
    (testState .unspecified []).config.tables.off =
      #v[0x05, 0x16, 0x27, 0x38, 0x49, 0x5A, 0x6B, 0x7C, 0x8D, 0x9E, 0xAF, 0xC0, 0xD1, 0xE2] ∧
    (testState .unspecified []).config.WellFormed := by decide

theorem witness_IntegersUpTo2Pow53AreExact : 0 ≤ 2 ^ 53 ∧ 2 ^ 53 ≤ 2 ^ 53 := by omega

/-- The hypotheses on a competitor: the largest finite number and zero. -/
theorem witness_MagnitudeIsTheNearestBinary64 :
    9999 ≤ 9999 ∧ 3 ≤ 3 ∧ isFinite 0x7FEFFFFFFFFFFFFF#64 = true ∧
    (0x7FEFFFFFFFFFFFFF#64 : Binary64).msb = false ∧ isFinite 0#64 = true ∧
    (0#64 : Binary64).msb = false := by decide

/-- OK responses without overflow, of both signs; the second reading, -0.7, is inexact. -/
theorem witness_ResponseMagnitudeIsTheNearestReading :
    (let r := answerDecode (testState .unspecified []).config 14 frameA;
      r.status = .ok ∧ r.ovf = false ∧ r.neg = false) ∧
    (let r := answerDecode (testState .unspecified []).config 14
        #v[0x2D, 0x30, 0x30, 0x30, 0x37, 0, 0x34, 0, 0, 0, 0x80, 0, 0, 0];
      r.status = .ok ∧ r.ovf = false ∧ r.neg = true ∧ r.count = 7#14 ∧ r.dpk = 1#2) ∧
    isFinite 0xFFEFFFFFFFFFFFFF#64 = true ∧ (0xFFEFFFFFFFFFFFFF#64 : Binary64).msb = true := by
  decide

/-- A block that has issued the OK response of W-A and is asked the reserved operation. -/
def answeredState : State where
  config := ⟨testTables, .sext8, .unspecified⟩
  requests := [3#119]
  responses := [
    { status := .ok, plain := Frame.zero, neg := false, ovf := false, count := 1234#14, dpk := 0#2,
      mag := 0x4093480000000000#64, exp := 0#4, unit := 1#3, scaleDefault := true, aux := 0#8 }]

theorem witness_EveryStepKeepsTheInvariant :
    answeredState.Inv ∧ ∃ t : State, step answeredState = .next t := by
  refine ⟨⟨by decide, by decide +kernel⟩, ?_⟩
  obtain ⟨_, h⟩ | ⟨_, _, _, h⟩ := step_cases answeredState
  · exact ⟨_, h⟩
  · exact ⟨_, h⟩

theorem witness_NoStepWritesTheConfiguration :
    ∃ s t : State, step s = .next t := ⟨testState .unspecified [], _, rfl⟩

end Sys2Proof.Tests
end

section
/-! Family 00_scope: the run of a program, the exactness of `f64`, the step without a request and the
state after reset. -/

namespace Sys2Proof.Machine

/-! ### The step without a request and the run of a program -/

/-- Settles O11: the branch of `step_cases` without a request. -/
theorem noRequestNoChange : Obligations.NoRequestNoChange := by
  intro s hs
  obtain ⟨-, hstep⟩ | ⟨w, rest, hcons, -⟩ := step_cases s
  · exact hstep
  · simp [hs] at hcons

/-- A run of `k` steps issues the answers to the first `k` requests and leaves the rest waiting. -/
theorem run_eq_answers (k : Nat) (s : State) :
    Host.Core.run Sys2Proof.core k s = .next { s with
      requests := s.requests.drop k,
      responses := s.responses ++ (s.requests.take k).map fun w => answerOf s.config (decode w) } := by
  induction k generalizing s with
  | zero => simp [run_zero]
  | succ k ih =>
    obtain ⟨hnil, hstep⟩ | ⟨w, rest, hcons, hstep⟩ := step_cases s
    · rw [run_succ k hstep, ih]
      simp [hnil]
    · rw [run_succ k hstep, ih]
      simp [hcons]

/-- Settles O15: each request is answered by `answerOf` of what its word says. -/
theorem runAnswersEachRequestInOrder : Obligations.RunAnswersEachRequestInOrder :=
  ⟨fun c w => answerOf c (decode w), run_eq_answers⟩

/-! ### `f64` on the integers that binary64 represents -/

/-- The last place of a whole number is 52 below its leading bit: no whole number is subnormal. -/
theorem lastPlace_one {n : Nat} (hn : n ≠ 0) : lastPlace n 1 = (Nat.log2 n : Int) - 52 := by
  have hlead : ¬ n < 2 ^ Nat.log2 n := Nat.not_lt.mpr (Nat.log2_self_le hn)
  simp only [lastPlace, show Nat.log2 1 = 0 from rfl, Int.natCast_zero, Int.sub_zero,
    Int.toNat_neg_natCast, Int.toNat_natCast, Nat.pow_zero, Nat.mul_one, Nat.one_mul, if_neg hlead]
  omega

/-- In the range of normal numbers, `nearest n d` is finite, and the rounded quotient `q` counts it in
units of its last place, whose exponent is `E - 1074`. -/
theorem nearest_normal {n d E q : Nat} (hn : n ≠ 0) (hplace : lastPlace n d = (E : Int) - 1074)
    (hround : roundQuotient (n * 2 ^ (1074 - E)) (d * 2 ^ (E - 1074)) = q)
    (hlo : 2 ^ 52 ≤ q) (hhi : q ≤ 2 ^ 53) (hE : E + 2 ≤ 2046) :
    isFinite (nearest n d) = true ∧ scaledMagnitude (nearest n d) = q * 2 ^ (E + 1) := by
  have hpattern : nearest n d = BitVec.ofNat 64 (E * 2 ^ 52 + q) := by
    have hinf : posInf.toNat = 2047 * 2 ^ 52 := rfl
    simp only [nearest, if_neg hn, hplace]
    rw [show (-((E : Int) - 1074)).toNat = 1074 - E by omega,
      show ((E : Int) - 1074).toNat = E - 1074 by omega,
      show ((E : Int) - 1074 + 1074).toNat = E by omega, hround, hinf, Nat.min_eq_left (by omega)]
  rw [hpattern]
  exact scaledMagnitude_pattern E q hlo hhi hE

/-- Two powers of two whose exponents add up to that of 2^c in the units of `scaledMagnitude`. -/
theorem two_pow_mul_eq_scaledOne {a b c : Nat} (h : a + b = c + 1075) :
    2 ^ a * 2 ^ b = 2 ^ c * scaledOne := by
  rw [scaledOne, ← Nat.pow_add, ← Nat.pow_add, h]

/-- A whole number below 2^53 needs no rounding: shifted up to 53 bits it is its own significand. -/
theorem f64_exact_of_lt {n : Nat} (hn : n ≠ 0) (h : n < 2 ^ 53) :
    isFinite (f64 n) = true ∧ scaledMagnitude (f64 n) = n * scaledOne := by
  have hlog : Nat.log2 n ≤ 52 := Nat.le_of_lt_succ ((Nat.log2_lt hn).mpr h)
  have hlo : 2 ^ 52 ≤ n * 2 ^ (52 - Nat.log2 n) := by
    calc 2 ^ 52 = 2 ^ Nat.log2 n * 2 ^ (52 - Nat.log2 n) := by rw [← Nat.pow_add]; congr 1; omega
      _ ≤ n * 2 ^ (52 - Nat.log2 n) := Nat.mul_le_mul_right _ (Nat.log2_self_le hn)
  have hhi : n * 2 ^ (52 - Nat.log2 n) ≤ 2 ^ 53 := by
    calc n * 2 ^ (52 - Nat.log2 n) ≤ 2 ^ (Nat.log2 n + 1) * 2 ^ (52 - Nat.log2 n) :=
          Nat.mul_le_mul_right _ Nat.lt_log2_self.le
      _ = 2 ^ 53 := by rw [← Nat.pow_add]; congr 1; omega
  have hround : roundQuotient (n * 2 ^ (1074 - (1022 + Nat.log2 n)))
      (1 * 2 ^ (1022 + Nat.log2 n - 1074)) = n * 2 ^ (52 - Nat.log2 n) := by
    rw [show 1022 + Nat.log2 n - 1074 = 0 by omega, Nat.pow_zero, Nat.mul_one, roundQuotient_one,
      show 1074 - (1022 + Nat.log2 n) = 52 - Nat.log2 n by omega]
  obtain ⟨hfinite, hmag⟩ := nearest_normal hn (E := 1022 + Nat.log2 n)
    (by rw [lastPlace_one hn]; omega) hround hlo hhi (by omega)
  refine ⟨hfinite, ?_⟩
  rw [f64, hmag, Nat.mul_assoc, two_pow_mul_eq_scaledOne (c := 0) (by omega), Nat.pow_zero,
    Nat.one_mul]

/-- 2^53 has 54 bits, and the one that the significand drops is zero. -/
theorem f64_exact_two_pow_53 :
    isFinite (f64 (2 ^ 53)) = true ∧ scaledMagnitude (f64 (2 ^ 53)) = 2 ^ 53 * scaledOne := by
  have hplace : lastPlace (2 ^ 53) 1 = (1075 : Nat) - 1074 := by
    rw [lastPlace_one (by decide), Nat.log2_two_pow]
    rfl
  obtain ⟨hfinite, hmag⟩ := nearest_normal (n := 2 ^ 53) (q := 2 ^ 52) (by decide) hplace
    (by decide) (Nat.le_refl _) (by decide) (by decide)
  exact ⟨hfinite, hmag.trans (two_pow_mul_eq_scaledOne rfl)⟩

/-- Settles O41: zero, the numbers below 2^53, and 2^53 itself. -/
theorem integersUpTo2Pow53AreExact : Obligations.IntegersUpTo2Pow53AreExact := by
  intro n h
  obtain ⟨hfinite, hmag⟩ : isFinite (f64 n) = true ∧ scaledMagnitude (f64 n) = n * scaledOne := by
    obtain rfl | hn := Nat.eq_zero_or_pos n
    · rw [Nat.zero_mul]
      decide
    · obtain hlt | rfl := Nat.lt_or_eq_of_le h
      · exact f64_exact_of_lt hn.ne' hlt
      · exact f64_exact_two_pow_53
  exact ⟨hfinite, nearest_msb n 1, hmag⟩

/-! ### The state after reset -/

/-- Settles O44: the device's tables carry their own evidence, and no response has been issued. -/
theorem resetMeetsTheInvariant : Obligations.ResetMeetsTheInvariant :=
  ⟨Config.deviceTables.wellFormed, fun _ hr => absurd hr List.not_mem_nil⟩

end Sys2Proof.Machine
end

section
/-! Family 10_state: the block is a pure function of its tables, `SIGN_OTHER` and the request, and no
step writes its configuration. -/

namespace Sys2Proof.Machine

/-! ### What a response reads of the configuration -/

/-- The ten steps read the tables and `SIGN_OTHER`, and not `AUX_EXT` (41_decode.md R71, R83). -/
theorem decodeFrame_congr {c c' : Config} (ht : c.tables = c'.tables)
    (ho : c.signOther = c'.signOther) (P : Frame) : decodeFrame c P = decodeFrame c' P := by
  simp only [decodeFrame, ht, ho]

/-- Configurations that differ in `AUX_EXT` alone answer every request alike (10_state.md R18). -/
theorem answerOf_congr {c c' : Config} (ht : c.tables = c'.tables)
    (ho : c.signOther = c'.signOther) (d : Decoded) : answerOf c d = answerOf c' d := by
  cases d with
  | instr i =>
    cases i with
    | descramble len R => simp only [answerOf, answerDescramble, ht]
    | decode len P => simp only [answerOf, answerDecode, decodeFrame_congr ht ho]
    | descrambleDecode len R =>
      simp only [answerOf, answerDescrambleDecode, decodeFrame_congr ht ho, ht]
  | reservedOp => rfl

/-! ### The step with a request at the input -/

/-- The branch of `step_cases` with a request, the next state written out in full. -/
theorem step_request {s : State} {w : ReqWord} {rest : List ReqWord} (h : s.requests = w :: rest) :
    step s = .next { s with
      requests := rest,
      responses := s.responses ++ [answerOf s.config (decode w)] } := by
  obtain ⟨hnil, -⟩ | ⟨w', rest', hcons, hstep⟩ := step_cases s
  · simp [hnil] at h
  · obtain ⟨rfl, rfl⟩ := List.cons.inj (hcons.symm.trans h)
    exact hstep

/-- Settles O13: `answerOf`, in a configuration with those tables, that `SIGN_OTHER` and an `AUX_EXT`
that no response reads. -/
theorem oneFunctionGivesEveryResponse : Obligations.OneFunctionGivesEveryResponse := by
  refine ⟨fun t o w => answerOf ⟨t, default, o⟩ (decode w), fun s w rest h => ?_⟩
  have hanswer : answerOf s.config (decode w) =
      answerOf ⟨s.config.tables, default, s.config.signOther⟩ (decode w) :=
    answerOf_congr rfl rfl _
  rw [step_request h, hanswer]

/-- Settles O14: the one function of O13 gets the same arguments from both states. -/
theorem earlierRequestsDoNotMatter : Obligations.EarlierRequestsDoNotMatter := by
  obtain ⟨f, hf⟩ := oneFunctionGivesEveryResponse
  intro s t w rs rt htables hother hs ht
  refine ⟨f s.config.tables s.config.signOther w, hf s w rs hs, ?_⟩
  rw [htables, hother]
  exact hf t w rt ht

/-! ### The configuration -/

/-- Settles O45: neither branch of `step_cases` touches the configuration. -/
theorem noStepWritesTheConfiguration : Obligations.NoStepWritesTheConfiguration := by
  intro s t h
  obtain ⟨-, hstep⟩ | ⟨w, rest, -, hstep⟩ := step_cases s
  · obtain rfl := Host.Outcome.next.inj (hstep.symm.trans h)
    rfl
  · obtain rfl := Host.Outcome.next.inj (hstep.symm.trans h)
    rfl

end Sys2Proof.Machine
end

section
/-! Family 20_memory: the order and the repetition of requests. -/

namespace Sys2Proof.Machine

/-- As many steps as there are requests answer every one of them and leave none waiting. -/
theorem run_to_end (s : State) :
    Host.Core.run Sys2Proof.core s.requests.length s = .next { s with
      requests := [],
      responses := s.responses ++ s.requests.map fun w => answerOf s.config (decode w) } := by
  rw [run_eq_answers, List.drop_length, List.take_length]

/-- Settles O16: both runs map the one function `answerOf c` over their requests, and `List.map` keeps
permutations. -/
theorem requestOrderRearrangesTheResponses :
    Obligations.RequestOrderRearrangesTheResponses := by
  intro s t hconfig hperm
  refine ⟨_, _, run_to_end s, run_to_end t, ?_⟩
  rw [hconfig]
  exact hperm.map _

/-- Settles O17: by `run_eq_answers` both responses are `answerOf` of one configuration and one request. -/
theorem repeatedRequestRepeatsItsResponse : Obligations.RepeatedRequestRepeatsItsResponse := by
  intro s w rest hs
  refine ⟨answerOf s.config (decode w), ?_⟩
  rw [run_eq_answers, hs]
  rfl

end Sys2Proof.Machine
end

section
/-! Family 30_encoding: the request word, the response word and the assembler, what each operation may
put into a response, and the invariant that every step keeps. -/

namespace Sys2Proof

/-! ### What the decoder reads (30_encoding.md R42 to R44) -/

/-- A word decodes to an instruction exactly when its three fields are that instruction's. -/
theorem decode_eq_instr {w : ReqWord} {i : Instr} :
    decode w = .instr i ↔ reqOp w = i.opcode ∧ reqLen w = i.len ∧ reqData w = i.data := by
  unfold decode
  split_ifs with h0 h1 h2
  · cases i <;> simp [h0, Instr.opcode, Instr.len, Instr.data]
  · cases i <;> simp [h1, Instr.opcode, Instr.len, Instr.data]
  · cases i <;> simp [h2, Instr.opcode, Instr.len, Instr.data]
  · cases i <;> simp [h0, h1, h2, Instr.opcode]

/-- A word is rejected exactly when its `op` field holds the reserved code. -/
theorem decode_eq_reservedOp {w : ReqWord} : decode w = .reservedOp ↔ reqOp w = 0b11#2 := by
  unfold decode
  generalize reqOp w = op
  split_ifs with h0 h1 h2
  · simp [h0]
  · simp [h1]
  · simp [h2]
  · simp only [true_iff]
    bv_omega

theorem reqOp_toNat (w : ReqWord) : (reqOp w).toNat = w.toNat % 4 := by
  rw [reqOp, BitVec.extractLsb'_toNat, Nat.shiftRight_zero]

theorem reqLen_eq (w : ReqWord) : reqLen w = w.toNat / 4 % 32 := by
  rw [reqLen, BitVec.extractLsb'_toNat, Nat.shiftRight_eq_div_pow]

/-- Bit b of data byte p is bit 7 + 8p + b of the request (20_memory.md R32). -/
theorem reqData_bit (w : ReqWord) (p : Fin 14) {b : Nat} (hb : b < 8) :
    (reqData w)[p].getLsbD b = w.getLsbD (7 + 8 * p.val + b) := by
  have hp : 8 * p.val + b < 112 := by omega
  simp [reqData, bitsToFrame, hb, hp, Nat.add_assoc]

/-! ### Decoding and encoding -/

/-- Settles O2: the request word carries the three fields, the length unreduced because it is below
32. -/
theorem decodeOfEncodeIsTheInstruction : Obligations.DecodeOfEncodeIsTheInstruction := by
  intro i hi
  have hlen : reqLen (encode i) = i.len := by
    rw [encode, reqLen_packRequest, Nat.mod_eq_of_lt (Nat.lt_succ_of_le hi)]
  exact decode_eq_instr.mpr ⟨reqOp_packRequest .., hlen, reqData_packRequest ..⟩

/-- Settles O3: a word is packed from its own fields. -/
theorem encodeOfDecodeIsTheWord : Obligations.EncodeOfDecodeIsTheWord := by
  intro w i h
  obtain ⟨hop, hlen, hdata⟩ := decode_eq_instr.mp h
  refine ⟨?_, ?_⟩
  · rw [encode, ← hop, ← hlen, ← hdata, packRequest_fields]
  · rw [Instr.WellFormed, ← hlen, reqLen_eq]
    omega

/-- Settles O4: the fields of the word, each by its arithmetic. -/
theorem requestFieldsStandWhereR42PutsThem : Obligations.RequestFieldsStandWhereR42PutsThem := by
  intro w
  refine ⟨?_, fun i h => ?_⟩
  · rw [decode_eq_reservedOp, ← BitVec.toNat_inj, reqOp_toNat]
    rfl
  · obtain ⟨hop, hlen, hdata⟩ := decode_eq_instr.mp h
    refine ⟨hlen.symm.trans (reqLen_eq w), fun p b hb => hdata ▸ reqData_bit w p hb, ?_⟩
    rw [← reqOp_toNat, hop]
    cases i <;> simp [Instr.opcode, Instr.len, Instr.data]

end Sys2Proof

namespace Sys2Proof.Machine

/-! ### The assembler (30_encoding.md R59) -/

theorem lanesOf_getElem (bytes : List Byte) (i : Fin 14) :
    (lanesOf bytes)[i] = bytes.getD i.val 0#8 := by
  simp [lanesOf]

/-- The bytes of a frame, listed, are the lanes of that frame. -/
theorem lanesOf_toList (F : Frame) : lanesOf F.toList = F := by
  ext i hi : 1
  simp [lanesOf]

/-- A `.len=<n>` line with one operand per lane of the length assembles. -/
theorem assemble_decodeLen {n : Nat} {bytes : List Byte} (hn : n ≤ 31)
    (hb : bytes.length = min n 14) :
    assemble (.decodeLen n bytes) = some (encode (.decode n (lanesOf bytes))) := by
  have hlegal : operandCountLegal n bytes.length = true := by
    unfold operandCountLegal
    split_ifs with h
    · simp [hb, h]
    · simp [hb]
  exact if_pos ⟨hn, hlegal⟩

/-- A line with 14 operands assembles to the encoding of its operation with `len = 14`. -/
theorem assemble_frame (F : Frame) :
    assemble (.descramble F.toList) = some (encode (.descramble 14 F)) ∧
    assemble (.decode F.toList) = some (encode (.decode 14 F)) ∧
    assemble (.descrambleDecode F.toList) = some (encode (.descrambleDecode 14 F)) := by
  simp [assemble, lanesOf_toList, encode, Instr.opcode, Instr.len, Instr.data]

/-- Settles O8: the well-formed lines assemble to encodings, which decode by O2. -/
theorem assemblerLinesEncodeTheirRequests : Obligations.AssemblerLinesEncodeTheirRequests := by
  refine ⟨fun F => ?_, fun n bytes hn hb => ⟨lanesOf bytes, ?_, lanesOf_getElem bytes⟩,
    fun bytes hb => ⟨if_neg hb, if_neg hb, if_neg hb⟩, by decide⟩
  · have hlen : 14 ≤ 31 := by decide
    obtain ⟨hdescramble, hdecode, hboth⟩ := assemble_frame F
    rw [hdescramble, hdecode, hboth]
    exact ⟨congrArg some (decodeOfEncodeIsTheInstruction _ hlen),
      congrArg some (decodeOfEncodeIsTheInstruction _ hlen),
      congrArg some (decodeOfEncodeIsTheInstruction _ hlen)⟩
  · rw [assemble_decodeLen hn hb]
    exact congrArg some (decodeOfEncodeIsTheInstruction _ hn)

/-! ### The response word (30_encoding.md R47, R48) -/

/-- A field of one bit, read as a bit. -/
theorem getLsbD_of_extractLsb'_one {n i : Nat} {w : BitVec n} {b : Bool}
    (h : w.extractLsb' i 1 = BitVec.ofBool b) : w.getLsbD i = b := by
  rw [BitVec.getLsbD_eq_extractLsb', h]
  cases b <;> rfl

/-- Plain byte p stands 8p bits into the `plain` field (20_memory.md R32). -/
theorem Response.toWord_plainByte (r : Response) (p : Fin 14) :
    r.toWord.extractLsb' (3 + 8 * p.val) 8 = r.plain[p] := by
  rw [← frameToBits_lane r.plain p, ← r.toWord_plain]
  ext b hb
  have hbit : 8 * p.val + b < 112 := by omega
  simp [hbit, Nat.add_assoc]

/-- Settles O5: one law of `toWord` per field. -/
theorem responseFieldsStandWhereR47PutsThem : Obligations.ResponseFieldsStandWhereR47PutsThem :=
  fun r => ⟨r.toWord_status, r.toWord_plainByte, getLsbD_of_extractLsb'_one r.toWord_neg,
    getLsbD_of_extractLsb'_one r.toWord_ovf, r.toWord_count, r.toWord_dpk, r.toWord_mag, r.toWord_exp,
    r.toWord_unit, getLsbD_of_extractLsb'_one r.toWord_scaleDefault, r.toWord_aux⟩

theorem Status.code_injective : Function.Injective Status.code := by
  intro st st' h
  cases st <;> cases st' <;> revert h <;> decide

theorem Status.code_ne_six (st : Status) : st.code ≠ 6#3 := by
  cases st <;> decide

/-- Settles O6: every field can be read back from the word (O5), and the status from its code. -/
theorem responseWordDeterminesTheResponse : Obligations.ResponseWordDeterminesTheResponse := by
  intro r r' h
  obtain ⟨hstatus, hplain, hneg, hovf, hcount, hdpk, hmag, hexp, hunit, hscale, haux⟩ :=
    responseFieldsStandWhereR47PutsThem r
  obtain ⟨hstatus', hplain', hneg', hovf', hcount', hdpk', hmag', hexp', hunit', hscale', haux'⟩ :=
    responseFieldsStandWhereR47PutsThem r'
  rw [h] at hstatus hplain hneg hovf hcount hdpk hmag hexp hunit hscale haux
  have hframe : r.plain = r'.plain := by
    ext p hp : 1
    exact (hplain ⟨p, hp⟩).symm.trans (hplain' ⟨p, hp⟩)
  have hcode : r.status = r'.status := Status.code_injective (hstatus.symm.trans hstatus')
  cases r
  cases r'
  rw [Response.mk.injEq]
  exact ⟨hcode, hframe, hneg.symm.trans hneg', hovf.symm.trans hovf', hcount.symm.trans hcount',
    hdpk.symm.trans hdpk', hmag.symm.trans hmag', hexp.symm.trans hexp', hunit.symm.trans hunit',
    hscale.symm.trans hscale', haux.symm.trans haux'⟩

/-- Settles O7: the status field holds the code of a status. -/
theorem statusSixIsNeverProduced : Obligations.StatusSixIsNeverProduced := fun r =>
  r.toWord_status ▸ r.status.code_ne_six

/-- Settles O1: the five words, decoded. -/
theorem printedRequestWordsDecode : Obligations.PrintedRequestWordsDecode := by
  unfold Obligations.PrintedRequestWordsDecode
  decide

/-! ### The step -/

/-- Settles O9: the step's response is the answer to what the word says, and so is that of `exec`. -/
theorem stepRunsTheRequestedOperation : Obligations.StepRunsTheRequestedOperation := by
  intro s w rest i hs hw
  rw [step_request hs, hw, exec_eq_respond]
  rfl

/-- Settles O10: such a word decodes to the reserved operation, which `answerReserved` answers. -/
theorem reservedOperationIsAnswered : Obligations.ReservedOperationIsAnswered := by
  intro s w rest hs hop
  refine ⟨answerReserved, ?_, rfl, by decide, rfl⟩
  rw [step_request hs, decode_eq_reservedOp.mpr hop]
  rfl

/-! ### What a decode answers -/

/-- The failures of steps 2 to 5. -/
theorem readMagnitude_error {P : Frame} {st : Status} (h : readMagnitude P = .error st) :
    st = .invalidDigit ∨ st = .invalidDecimalPoint := by
  obtain ⟨-, hr⟩ | ⟨-, -, hr⟩ | ⟨n, -, -, -, hr⟩ | ⟨n, k, -, -, -, hr⟩ := readMagnitude_cases P
  · cases hr.symm.trans h
  · exact .inl (Except.error.inj (h.symm.trans hr))
  · exact .inr (Except.error.inj (h.symm.trans hr))
  · cases hr.symm.trans h

/-- The failures that decoding a frame can report (41_decode.md R73 to R80). -/
theorem decodeFrame_error {c : Config} {P : Frame} {st : Status} (h : decodeFrame c P = .error st) :
    st = .emptyFrame ∨ st = .invalidDigit ∨ st = .invalidDecimalPoint ∨ st = .unspecifiedSign := by
  obtain ⟨-, hd⟩ | ⟨st', -, hr, hd⟩ | ⟨r, -, -, -, hd⟩ | ⟨r, neg, -, -, -, hd⟩ :=
    decodeFrame_cases c P
  · exact .inl (Except.error.inj (h.symm.trans hd))
  · cases hd.symm.trans h
    obtain hdigit | hpoint := readMagnitude_error hr
    · exact .inr (.inl hdigit)
    · exact .inr (.inr (.inl hpoint))
  · exact .inr (.inr (.inr (Except.error.inj (h.symm.trans hd))))
  · cases hd.symm.trans h

/-- A successful decode builds its record from a reading and a sign. -/
theorem decodeFrame_ok {c : Config} {P : Frame} {m : Measurement} (h : decodeFrame c P = .ok m) :
    ∃ r neg, readMagnitude P = .ok r ∧ m = recordOf c P r neg := by
  obtain ⟨-, hd⟩ | ⟨st, -, -, hd⟩ | ⟨r, -, -, -, hd⟩ | ⟨r, neg, -, hr, -, hd⟩ :=
    decodeFrame_cases c P
  · cases hd.symm.trans h
  · cases hd.symm.trans h
  · cases hd.symm.trans h
  · exact ⟨r, neg, hr, Except.ok.inj (h.symm.trans hd)⟩

/-- What steps 2 to 5 hand on: a count of four digits and a magnitude without sign, infinite under
overflow (41_decode.md R74 to R78). -/
theorem readMagnitude_formed {P : Frame} {r : Reading} (h : readMagnitude P = .ok r) :
    r.count ≤ 9999 ∧ (r.ovf = true → r.count = 0 ∧ r.dpk = 0 ∧ r.mag = posInf) ∧
      r.mag.msb = false := by
  obtain ⟨-, hr⟩ | ⟨-, -, hr⟩ | ⟨n, -, -, -, hr⟩ | ⟨n, k, -, hn, -, hr⟩ := readMagnitude_cases P
  · cases hr.symm.trans h
    exact ⟨by decide, fun _ => ⟨rfl, rfl, rfl⟩, by decide⟩
  · cases hr.symm.trans h
  · cases hr.symm.trans h
  · cases hr.symm.trans h
    refine ⟨digitCount_le hn, nofun, ?_⟩
    rw [unsignedMagnitude, fdiv_f64, nearest_msb]

theorem signedMagnitude_msb {m : Binary64} (h : m.msb = false) (neg : Bool) :
    (signedMagnitude neg m).msb = neg := by
  cases neg <;> simp [signedMagnitude, h]

/-- The exponent code is one of the five of 30_encoding.md R52, and the tag stands with code 0 alone. -/
theorem exponentCode_formed (m : Option ScaleKey) :
    exponentCode (scaleExponent m) ∈ [0xA#4, 0xD#4, 0x0#4, 0x3#4, 0x6#4] ∧
      (scaleDefaultFlag m = true ↔ exponentCode (scaleExponent m) = 0#4) := by
  rcases m with - | (- | - | - | -) <;> decide

/-- A well-formed reading makes a record of 30_encoding.md R50 to R52, whatever the sign. -/
theorem ofMeasurement_recordFormed {c : Config} {P : Frame} {m : Measurement}
    (h : decodeFrame c P = .ok m) : (Response.ofMeasurement m).RecordFormed := by
  obtain ⟨r, neg, hr, rfl⟩ := decodeFrame_ok h
  obtain ⟨hcount, hovf, hmsb⟩ := readMagnitude_formed hr
  obtain ⟨hexp, hdefault⟩ := exponentCode_formed (scaleMatch c.tables P[9])
  refine ⟨?_, fun ho => ?_, signedMagnitude_msb hmsb neg, hexp, hdefault⟩
  · rw [Response.ofMeasurement_count, BitVec.toNat_ofNat]
    exact (Nat.mod_le _ _).trans hcount
  · obtain ⟨hcount0, hdpk0, hinf⟩ := hovf ho
    simp [recordOf, hcount0, hdpk0, hinf]

/-! ### What an operation answers (30_encoding.md R53) -/

/-- The response to a request whose operand is a frame of 14 bytes: its status reports on the frame and
not on the request, and it carries a record or no measurement, the latter with every failure. -/
def Response.AnswersFrame (r : Response) : Prop :=
  r.status ≠ .frameLengthMismatch ∧ r.status ≠ .reservedOp ∧
    (r.status = .ok → r.MeasurementZero ∨ r.RecordFormed) ∧ (r.status ≠ .ok → r.MeasurementZero)

theorem Response.AnswersFrame.whole {r : Response} (h : r.AnswersFrame) : r.Whole := by
  obtain ⟨hlength, hreserved, hok, hfail⟩ := h
  exact ⟨hok, hfail, fun hst => (hst.elim hlength hreserved).elim⟩

/-- Keeping the plaintext frame touches neither the status nor the measurement. -/
theorem Response.AnswersFrame.withPlain {r : Response} (h : r.AnswersFrame) (P : Frame) :
    (r.withPlain P).AnswersFrame := h

theorem ofStatus_ok_answersFrame : (Response.ofStatus .ok).AnswersFrame :=
  ⟨nofun, nofun, fun _ => .inl (Response.ofStatus_measurementZero _), fun h => absurd rfl h⟩

theorem ofDecode_answersFrame (c : Config) (P : Frame) :
    (Response.ofDecode (decodeFrame c P)).AnswersFrame := by
  cases hd : decodeFrame c P with
  | error st =>
    have hzero := Response.ofStatus_measurementZero st
    obtain rfl | rfl | rfl | rfl := decodeFrame_error hd
    all_goals exact ⟨nofun, nofun, nofun, fun _ => hzero⟩
  | ok m =>
    exact ⟨nofun, nofun, fun _ => .inr (ofMeasurement_recordFormed hd), fun h => absurd rfl h⟩

theorem ofDecode_plain (d : Except Status Measurement) : (Response.ofDecode d).plain = Frame.zero := by
  cases d <;> rfl

/-- A response that carries a failure alone is whole. -/
theorem ofStatus_whole {st : Status} (h : st ≠ .ok) : (Response.ofStatus st).Whole :=
  ⟨fun hok => absurd hok h, fun _ => Response.ofStatus_measurementZero st, fun _ => rfl⟩

theorem answerOf_wrongLength (c : Config) {i : Instr} (h : i.len ≠ 14) :
    answerOf c (.instr i) = Response.ofStatus .frameLengthMismatch := by
  cases i with
  | descramble len R => exact answerDescramble_length c R h
  | decode len P => exact answerDecode_length c P h
  | descrambleDecode len R => exact answerDescrambleDecode_length c R h

theorem answerOf_answersFrame (c : Config) {i : Instr} (h : i.len = 14) :
    (answerOf c (.instr i)).AnswersFrame := by
  cases i with
  | descramble len R =>
    obtain rfl : len = 14 := h
    exact ofStatus_ok_answersFrame.withPlain _
  | decode len P =>
    obtain rfl : len = 14 := h
    exact ofDecode_answersFrame c P
  | descrambleDecode len R =>
    obtain rfl : len = 14 := h
    exact (ofDecode_answersFrame c _).withPlain _

theorem answerOf_lengthMismatch_iff (c : Config) (i : Instr) :
    (answerOf c (.instr i)).status = .frameLengthMismatch ↔ i.len ≠ 14 := by
  refine ⟨fun hst hlen => ?_, fun hlen => ?_⟩
  · obtain ⟨hlength, -⟩ := answerOf_answersFrame c hlen
    exact hlength hst
  · rw [answerOf_wrongLength c hlen, Response.ofStatus_status]

/-- Every request is answered by a whole response. -/
theorem answerOf_whole (c : Config) (d : Decoded) : (answerOf c d).Whole := by
  cases d with
  | instr i =>
    by_cases hlen : i.len = 14
    · exact (answerOf_answersFrame c hlen).whole
    · rw [answerOf_wrongLength c hlen]
      exact ofStatus_whole nofun
  | reservedOp => exact ofStatus_whole nofun

/-- DESCRAMBLE fills no measurement field (40_descramble.md R66, R67). -/
theorem answerDescramble_fields (c : Config) (len : Nat) (R : Frame) :
    (answerDescramble c len R).MeasurementZero ∧
      ((answerDescramble c len R).status = .ok ∨
        (answerDescramble c len R).status = .frameLengthMismatch) := by
  by_cases hlen : len = 14
  · subst hlen
    exact ⟨Response.ofStatus_measurementZero .ok, .inl rfl⟩
  · rw [answerDescramble_length c R hlen]
    exact ⟨Response.ofStatus_measurementZero _, .inr rfl⟩

/-- DECODE keeps no plaintext (30_encoding.md R49). -/
theorem answerDecode_plain (c : Config) (len : Nat) (P : Frame) :
    (answerDecode c len P).plain = Frame.zero := by
  by_cases hlen : len = 14
  · subst hlen
    exact ofDecode_plain _
  · rw [answerDecode_length c P hlen, Response.ofStatus_plain]

/-- Settles O39: the length decides the status, `answerOf_whole` gives the zero fields, and each
operation its own. -/
theorem eachOperationFillsOnlyItsFields : Obligations.EachOperationFillsOnlyItsFields := by
  intro s i
  obtain ⟨-, hfail, hnoFrame⟩ := answerOf_whole s.config (.instr i)
  refine ⟨answerOf s.config (.instr i), exec_eq_respond i s, answerOf_lengthMismatch_iff s.config i,
    hfail, fun hst => hnoFrame (.inl hst), ?_, ?_, ?_⟩
  · rintro len data rfl
    exact answerDescramble_fields s.config len data
  · rintro len data rfl
    exact answerDecode_plain s.config len data
  · rintro len data rfl rfl p
    exact descrambleFrame_getElem s.config.tables data p p.isLt

/-! ### The invariant -/

/-- Settles O43: the configuration stays (O45), and a step issues at most one response, which is
whole. -/
theorem everyStepKeepsTheInvariant : Obligations.EveryStepKeepsTheInvariant := by
  intro s t hinv hnext
  obtain ⟨htables, hwhole⟩ := hinv
  have hconfig := noStepWritesTheConfiguration s t hnext
  refine ⟨hconfig ▸ htables, ?_⟩
  obtain ⟨-, hstep⟩ | ⟨w, rest, -, hstep⟩ := step_cases s
  · cases hstep.symm.trans hnext
    exact hwhole
  · cases hstep.symm.trans hnext
    intro r hr
    obtain hold | hnew := List.mem_append.mp hr
    · exact hwhole r hold
    · obtain rfl := List.mem_singleton.mp hnew
      exact answerOf_whole s.config (decode w)

end Sys2Proof.Machine
end

section
/-! Family 40_descramble: `rev8`, what DESCRAMBLE answers on a frame, and SCRAMBLE as its inverse. -/

namespace Sys2Proof.Machine

/-! ### The bit reversal (40_descramble.md R61, R62) -/

/-- Settles O19: `rev8_bit` for every byte, and the rule's four examples by evaluation. -/
theorem bitReversalMirrorsTheByte : Obligations.BitReversalMirrorsTheByte :=
  ⟨rev8_bit, by decide⟩

/-- Mirroring bit i twice comes back to it, since 7 - (7 - i) = i. -/
theorem rev8_involutive : Function.Involutive rev8 := by
  intro b
  refine BitVec.eq_of_getLsbD_eq fun i hi => ?_
  rw [rev8_bit _ i hi, rev8_bit b (7 - i) (by omega), Nat.sub_sub_self (by omega)]

/-- The bits of `rev8 b` from 0 up to 7 are those of `b` from 7 down to 0. -/
theorem map_getLsbD_rev8 (b : Byte) :
    (List.range 8).map (rev8 b).getLsbD = (List.range 8).reverse.map b.getLsbD := by
  have hmirror : (List.range 8).map (7 - ·) = (List.range 8).reverse := by decide
  rw [← hmirror, List.map_map]
  exact List.map_congr_left fun i hi => rev8_bit b i (List.mem_range.mp hi)

/-- The number of one bits, counted in the list of the bits. -/
theorem length_filter_getLsbD (b : Byte) :
    ((List.range 8).filter fun i => b.getLsbD i).length =
      ((List.range 8).map b.getLsbD).count true := by
  rw [List.count, List.countP_map, List.countP_eq_length_filter]
  simp [Function.comp_def]

/-- Settles O20: an involution is bijective, and a list has as many one bits as its reverse. -/
theorem bitReversalIsAnInvolution : Obligations.BitReversalIsAnInvolution := by
  refine ⟨rev8_involutive, rev8_involutive.bijective, fun b => ?_⟩
  rw [length_filter_getLsbD, length_filter_getLsbD, map_getLsbD_rev8, List.map_reverse,
    List.count_reverse]

/-! ### DESCRAMBLE of a frame (40_descramble.md R63 to R66) -/

/-- DESCRAMBLE of 14 bytes issues the OK response with the descrambled frame and changes nothing
else. -/
theorem exec_descramble_frame (s : State) (R : Frame) :
    exec (.descramble 14 R) s = .next (s.respond
      ((Response.ofStatus .ok).withPlain (descrambleFrame s.config.tables R))) := by
  rw [exec_eq_respond, answerOf, answerDescramble_frame]

/-- Plaintext byte p is made of the raw byte at `PERM[p]` and of `OFF[p]`. -/
theorem descrambleFrame_plaintextByte (t : Tables) (R : Frame) (p : Fin 14) :
    (descrambleFrame t R)[p] = rev8 (R[t.perm[p]] + t.off[p]) :=
  (descrambleFrame_getElem t R p p.isLt).trans (plainByte_eq t R p)

/-- Addition of bytes is addition of their values modulo 256 (00_scope.md R16). -/
theorem add_eq_ofNat_mod (a b : Byte) : a + b = BitVec.ofNat 8 ((a.toNat + b.toNat) % 256) :=
  BitVec.eq_of_toNat_eq (by simp)

/-- Settles O21: `exec_descramble_frame` gives the response, and bit i of each plaintext byte is the
mirrored bit of the sum by `rev8_bit`. -/
theorem descrambleGivesEachPlaintextByte : Obligations.DescrambleGivesEachPlaintextByte := by
  intro s R
  refine ⟨_, exec_descramble_frame s R, rfl, Response.ofStatus_measurementZero .ok, ?_⟩
  intro p i hi
  rw [Response.withPlain_plain, descrambleFrame_plaintextByte, rev8_bit _ i hi, add_eq_ofNat_mod]

/-! ### SCRAMBLE is the inverse (40_descramble.md R68 to R70) -/

/-- A permutation table without a repetition names every raw position (00_scope.md R6 (a)). -/
theorem perm_surjective {t : Tables} (ht : t.PermBijective) :
    Function.Surjective fun p : Fin 14 => t.perm[p] := by
  refine Finite.surjective_of_injective fun p q hpq => ?_
  have hlist : t.perm.toList[p.val]'(by simp) = t.perm.toList[q.val]'(by simp) := by simpa using hpq
  exact Fin.ext (ht.getElem_inj_iff.mp hlist)

/-- R69: the offset that SCRAMBLE subtracts is added again, and the two bit reversals cancel. -/
theorem descrambleFrame_scrambleFrame {t : Tables} (ht : t.PermBijective) (P : Frame) :
    descrambleFrame t (scrambleFrame t P) = P := by
  ext i hi : 1
  rw [descrambleFrame_getElem, plainByte_eq, scrambleFrame_getElem P ht, sub8,
    BitVec.sub_add_cancel, rev8_involutive]
  rfl

/-- R70: every raw position is `PERM[p]` for some p, and there SCRAMBLE takes back the bit reversal
and the offset. -/
theorem scrambleFrame_descrambleFrame {t : Tables} (ht : t.PermBijective) (R : Frame) :
    scrambleFrame t (descrambleFrame t R) = R := by
  ext j hj : 1
  obtain ⟨p, hp⟩ := perm_surjective ht ⟨j, hj⟩
  have hbyte : (scrambleFrame t (descrambleFrame t R))[t.perm[p]] = R[t.perm[p]] := by
    rw [scrambleFrame_getElem _ ht, descrambleFrame_plaintextByte, rev8_involutive, sub8,
      BitVec.add_sub_cancel]
  simpa [hp] using hbyte

/-- Settles O23: the response of `exec_descramble_frame`, with the plaintext by R69. -/
theorem descrambleUndoesScramble : Obligations.DescrambleUndoesScramble := fun s P ht =>
  ⟨_, exec_descramble_frame s _, rfl, descrambleFrame_scrambleFrame ht P⟩

/-- Settles O24: SCRAMBLE is a left and a right inverse. -/
theorem descrambleIsABijection : Obligations.DescrambleIsABijection := fun t ht =>
  ⟨Function.bijective_iff_has_inverse.mpr
    ⟨scrambleFrame t, scrambleFrame_descrambleFrame ht, descrambleFrame_scrambleFrame ht⟩,
    scrambleFrame_descrambleFrame ht⟩

end Sys2Proof.Machine
end

section
/-! Family 41_decode, the division of R78: `nearest` is correctly rounded, and the magnitude of a reading
is `nearest` of the count and its divisor. -/

namespace Sys2Proof.Machine

/-! ### The quotient of step 5 (41_decode.md R78) -/

/-- Rounding takes the quotient's whole part or the next number. -/
theorem roundQuotient_cases (num den : Nat) :
    roundQuotient num den = num / den ∨ roundQuotient num den = num / den + 1 := by
  simp only [roundQuotient]
  split
  · exact .inr rfl
  · exact .inl rfl

/-- A quotient between two whole numbers is rounded to one between them. -/
theorem roundQuotient_mem {num den a b : Nat} (hd : 0 < den) (hlo : a * den ≤ num)
    (hhi : num < b * den) : a ≤ roundQuotient num den ∧ roundQuotient num den ≤ b := by
  have hfloor : a ≤ num / den := (Nat.le_div_iff_mul_le hd).mpr hlo
  have hceil : num / den < b := (Nat.div_lt_iff_lt_mul hd).mpr hhi
  obtain h | h := roundQuotient_cases num den <;> omega

theorem two_pow_le_scaledOne {a : Nat} (h : a ≤ 1075) : 2 ^ a ≤ scaledOne := by
  simpa only [scaledOne] using Nat.pow_le_pow_right Nat.two_pos h

theorem scaledOne_pos : 0 < scaledOne := two_pow_le_scaledOne (Nat.zero_le _)

/-- The unit of `scaledMagnitude` is a power of two. -/
theorem two_pow_mul_scaledOne (c : Nat) : 2 ^ c * scaledOne = 2 ^ (c + 1075) := by
  simp only [scaledOne, Nat.pow_add]

theorem two_pow_mul_two_pow {a b : Nat} (h : a + b = 1075) : 2 ^ a * 2 ^ b = scaledOne := by
  rw [two_pow_mul_eq_scaledOne (c := 0) (by omega), Nat.pow_zero, Nat.one_mul]

/-- The powers of two around a number, shifted. -/
theorem two_pow_log2_add {x : Nat} (hx : x ≠ 0) (c : Nat) :
    2 ^ (Nat.log2 x + c) ≤ x * 2 ^ c ∧ x * 2 ^ c < 2 ^ (Nat.log2 x + c + 1) := by
  rw [Nat.add_right_comm, Nat.pow_add, Nat.pow_add 2 (_ + 1)]
  exact ⟨Nat.mul_le_mul_right _ (Nat.log2_self_le hx),
    Nat.mul_lt_mul_of_pos_right Nat.lt_log2_self (Nat.two_pow_pos c)⟩

theorem log2_mul_two_pow {x : Nat} (hx : x ≠ 0) (j : Nat) :
    Nat.log2 (x * 2 ^ j) = Nat.log2 x + j :=
  (Nat.log2_eq_iff (Nat.mul_ne_zero hx (Nat.two_pow_pos j).ne')).mpr (two_pow_log2_add hx j)

/-- The comparison that `lastPlace` makes, in the units of `scaledMagnitude`. -/
theorem shifted_lt_iff {n d a b F : Nat} (hF : b + F = a + 1075) :
    n * 2 ^ (-((a : Int) - b)).toNat < d * 2 ^ ((a : Int) - b).toNat ↔
      n * scaledOne < d * 2 ^ F := by
  rw [← Nat.mul_lt_mul_right (Nat.two_pow_pos (1075 - (-((a : Int) - b)).toNat)), Nat.mul_assoc,
    Nat.mul_assoc, two_pow_mul_two_pow (by omega), ← Nat.pow_add,
    show ((a : Int) - b).toNat + (1075 - (-((a : Int) - b)).toNat) = F by omega]

/-- In the range of normal numbers the last place of `n / d` is 52 below its leading bit, whose exponent
is `E - 1022`. -/
theorem lastPlace_normal {n d : Nat} (hn : n ≠ 0) (hd : d ≠ 0) (hmin : d * 2 ^ 53 ≤ n * scaledOne) :
    ∃ E : Nat, lastPlace n d = (E : Int) - 1074 ∧ d * 2 ^ (E + 53) ≤ n * scaledOne ∧
      n * scaledOne < d * 2 ^ (E + 54) := by
  obtain ⟨hnlo, hnhi⟩ : 2 ^ (Nat.log2 n + 1075) ≤ n * scaledOne ∧
      n * scaledOne < 2 ^ (Nat.log2 n + 1075 + 1) := by
    simpa only [scaledOne] using two_pow_log2_add hn 1075
  have hdbounds := two_pow_log2_add hd
  simp only [lastPlace]
  generalize Nat.log2 n = a at *
  generalize Nat.log2 d = b at *
  have hab : b + 53 < a + 1075 + 1 := by
    rw [← Nat.pow_lt_pow_iff_right (a := 2) (by decide)]
    exact ((hdbounds 53).1.trans hmin).trans_lt hnhi
  obtain ⟨E, hE⟩ : ∃ E, b + (E + 53) = a + 1075 := ⟨a + 1022 - b, by omega⟩
  simp only [shifted_lt_iff hE]
  split
  case isTrue hlt =>
    obtain ⟨F, rfl⟩ : ∃ F, E = F + 1 := by
      refine Nat.exists_eq_add_one.mpr (Nat.pos_of_ne_zero fun h0 => ?_)
      rw [h0] at hlt
      exact absurd hmin (Nat.not_le.mpr hlt)
    refine ⟨F, by omega, ?_, hlt⟩
    calc d * 2 ^ (F + 53) ≤ 2 ^ (b + (F + 53) + 1) := (hdbounds _).2.le
      _ = 2 ^ (a + 1075) := by rw [← hE]; congr 1
      _ ≤ n * scaledOne := hnlo
  case isFalse hge =>
    refine ⟨E, by omega, Nat.not_lt.mp hge, ?_⟩
    calc n * scaledOne < 2 ^ (a + 1075 + 1) := hnhi
      _ = 2 ^ (b + (E + 54)) := by rw [← hE]; rfl
      _ ≤ d * 2 ^ (E + 54) := (hdbounds _).1

/-- A factor 2^j of numerator and denominator does not move the last place. -/
theorem lastPlace_mul_two_pow {n d : Nat} (hn : n ≠ 0) (hd : d ≠ 0) (j : Nat) :
    lastPlace (n * 2 ^ j) (d * 2 ^ j) = lastPlace n d := by
  simp only [lastPlace, log2_mul_two_pow hn, log2_mul_two_pow hd, Int.natCast_add,
    Int.add_sub_add_right, Nat.mul_right_comm _ (2 ^ j), Nat.mul_lt_mul_right (Nat.two_pow_pos j)]

/-- A factor 2^j of numerator and denominator does not matter. -/
theorem nearest_mul_two_pow {d : Nat} (n : Nat) (hd : d ≠ 0) (j : Nat) :
    nearest (n * 2 ^ j) (d * 2 ^ j) = nearest n d := by
  by_cases hn : n = 0
  · simp [nearest, hn]
  · have hnj : n * 2 ^ j ≠ 0 := Nat.mul_ne_zero hn (Nat.two_pow_pos j).ne'
    simp only [nearest, if_neg hn, if_neg hnj, lastPlace_mul_two_pow hn hd,
      Nat.mul_right_comm _ (2 ^ j), roundQuotient_mul_right _ _ _ (Nat.two_pow_pos j)]

/-- Both operands of the division are exact, so that it rounds `n / 10^k` once. -/
theorem unsignedMagnitude_eq_nearest {n k : Nat} (hn : n ≤ 9999) (hk : k ≤ 3) :
    unsignedMagnitude n k = nearest n (10 ^ k) := by
  have hpow : 10 ^ k ≤ 10 ^ 3 := Nat.pow_le_pow_right (by decide) hk
  obtain ⟨-, -, hcount⟩ := integersUpTo2Pow53AreExact n (by omega)
  obtain ⟨-, -, hdivisor⟩ := integersUpTo2Pow53AreExact (10 ^ k) (by omega)
  rw [unsignedMagnitude, fdiv_f64, hcount, hdivisor, scaledOne,
    nearest_mul_two_pow n (Nat.pow_pos (by decide)).ne']

/-! ### The order of the non-negative binary64 numbers -/

theorem exponentField_eq (x : Binary64) : exponentField x = x.toNat / 2 ^ 52 % 2 ^ 11 := by
  rw [exponentField, BitVec.extractLsb'_toNat, Nat.shiftRight_eq_div_pow]

theorem fractionField_eq (x : Binary64) : fractionField x = x.toNat % 2 ^ 52 := by
  rw [fractionField, BitVec.extractLsb'_toNat, Nat.shiftRight_zero]

/-- Every significand is below 2^53. -/
theorem scaledMagnitude_lt {x : Binary64} {e : Nat} (h : max 1 (exponentField x) ≤ e) :
    scaledMagnitude x < 2 ^ 53 * 2 ^ e := by
  have hsig : significand x < 2 ^ 53 := by
    rw [significand, fractionField_eq]
    split <;> omega
  calc scaledMagnitude x ≤ significand x * 2 ^ e :=
        Nat.mul_le_mul_left _ (Nat.pow_le_pow_right (by decide) h)
    _ < 2 ^ 53 * 2 ^ e := Nat.mul_lt_mul_of_pos_right hsig (Nat.two_pow_pos e)

/-- A number with a larger exponent is normal, and so it is larger. -/
theorem scaledMagnitude_lt_of_exponent_lt {x y : Binary64}
    (h : max 1 (exponentField x) < max 1 (exponentField y)) :
    scaledMagnitude x < scaledMagnitude y := by
  obtain ⟨e, he⟩ : ∃ e, max 1 (exponentField y) = e + 1 := ⟨_, (Nat.succ_pred (by omega)).symm⟩
  have hsig : 2 ^ 52 ≤ significand y := by
    rw [significand, if_neg (by omega)]
    exact Nat.le_add_left _ _
  calc scaledMagnitude x < 2 ^ 53 * 2 ^ e := scaledMagnitude_lt (by omega)
    _ = 2 ^ 52 * 2 ^ (e + 1) := by rw [← Nat.pow_add, ← Nat.pow_add]; congr 1; omega
    _ ≤ scaledMagnitude y := by
      rw [scaledMagnitude, he]
      exact Nat.mul_le_mul_right _ hsig

/-- Different patterns without sign stand for different numbers. -/
theorem eq_of_scaledMagnitude_eq {x y : Binary64} (hx : x.msb = false) (hy : y.msb = false)
    (h : scaledMagnitude x = scaledMagnitude y) : x = y := by
  have hexp : max 1 (exponentField x) = max 1 (exponentField y) := by
    obtain hlt | heq | hgt := Nat.lt_trichotomy (max 1 (exponentField x)) (max 1 (exponentField y))
    · exact absurd h (scaledMagnitude_lt_of_exponent_lt hlt).ne
    · exact heq
    · exact absurd h (scaledMagnitude_lt_of_exponent_lt hgt).ne'
  have hsig : significand x = significand y := by
    rw [scaledMagnitude, scaledMagnitude, hexp] at h
    exact Nat.eq_of_mul_eq_mul_right (Nat.two_pow_pos _) h
  rw [BitVec.msb_eq_false_iff_two_mul_lt] at hx hy
  simp only [significand, exponentField_eq, fractionField_eq] at hexp hsig
  apply BitVec.eq_of_toNat_eq
  split at hsig <;> split at hsig <;> omega

/-! ### The binary64 number nearest to a reading -/

/-- How far a binary64 number's absolute value is from `n / d`, in units of 2^-1075 / d. -/
def readingDistance (x : Binary64) (n d : Nat) : Nat :=
  ((scaledMagnitude x * d : Nat) - (n * scaledOne : Nat) : Int).natAbs

/-- `m` is the binary64 number of the given sign that is nearest to `n / d` with that sign, ties to
even. -/
def NearestReading (m : Binary64) (neg : Bool) (n d : Nat) : Prop :=
  isFinite m = true ∧ m.msb = neg ∧
    ∀ y : Binary64, isFinite y = true → y.msb = neg →
      readingDistance m n d ≤ readingDistance y n d ∧
      (readingDistance m n d = readingDistance y n d → y = m ∨ m.getLsbD 0 = false)

/-- The distance of a multiple of 2^(E + 1), as `roundQuotient_nearest` measures it. -/
theorem readingDistance_of_multiple {x : Binary64} {a E : Nat} (n d : Nat)
    (h : scaledMagnitude x = a * 2 ^ (E + 1)) :
    readingDistance x n d = ((a * (d * 2 ^ (E + 1)) : Nat) - (n * scaledOne : Nat) : Int).natAbs := by
  rw [readingDistance, h, Nat.mul_assoc, Nat.mul_comm d]

/-- The last bit of the pattern with significand `q` is the parity of `q`. -/
theorem getLsbD_zero_of_even {x : Binary64} {E q : Nat} (hx : x.msb = false)
    (hmag : scaledMagnitude x = q * 2 ^ (E + 1)) (hlo : 2 ^ 52 ≤ q) (hhi : q ≤ 2 ^ 53)
    (hE : E + 2 ≤ 2046) (heven : q % 2 = 0) : x.getLsbD 0 = false := by
  obtain ⟨-, hpattern⟩ := scaledMagnitude_pattern E q hlo hhi hE
  have hmsb : (BitVec.ofNat 64 (E * 2 ^ 52 + q)).msb = false := by
    rw [BitVec.msb_eq_false_iff_two_mul_lt, BitVec.toNat_ofNat]
    omega
  rw [eq_of_scaledMagnitude_eq hx hmsb (hmag.trans hpattern.symm), BitVec.getLsbD_ofNat,
    Nat.testBit_zero, Bool.and_eq_false_imp]
  simp only [decide_eq_false_iff_not]
  omega

/-- A number with the exponent of the quotient's last place or a larger one is a multiple of that
place, and one with a smaller exponent lies below 2^52 such places. -/
theorem scaledMagnitude_multiple_or_lt (y : Binary64) (E : Nat) :
    (∃ a, scaledMagnitude y = a * 2 ^ (E + 1)) ∨ scaledMagnitude y < 2 ^ 52 * 2 ^ (E + 1) := by
  by_cases h : E + 1 ≤ max 1 (exponentField y)
  · obtain ⟨c, hc⟩ := Nat.exists_eq_add_of_le h
    exact .inl ⟨significand y * 2 ^ c, by rw [scaledMagnitude, hc, Nat.pow_add]; ring⟩
  · right
    calc scaledMagnitude y < 2 ^ 53 * 2 ^ E := scaledMagnitude_lt (by omega)
      _ = 2 ^ 52 * 2 ^ (E + 1) := by rw [← Nat.pow_add, ← Nat.pow_add]; congr 1; omega

/-- The quotient that `nearest` rounds, in the units of `scaledMagnitude`. -/
theorem roundQuotient_lastPlace (n d E : Nat) :
    roundQuotient (n * 2 ^ (1074 - E)) (d * 2 ^ (E - 1074)) =
      roundQuotient (n * scaledOne) (d * 2 ^ (E + 1)) := by
  rw [← roundQuotient_mul_right _ _ (2 ^ (min E 1074 + 1)) (Nat.two_pow_pos _), Nat.mul_assoc,
    Nat.mul_assoc, two_pow_mul_two_pow (by omega), ← Nat.pow_add,
    show E - 1074 + (min E 1074 + 1) = E + 1 by omega]

/-- The rounded quotient has 53 bits when the place is that of `lastPlace_normal`. -/
theorem roundQuotient_significand {n d E : Nat} (hd : d ≠ 0) (hlo : d * 2 ^ (E + 53) ≤ n * scaledOne)
    (hhi : n * scaledOne < d * 2 ^ (E + 54)) :
    2 ^ 52 * (d * 2 ^ (E + 1)) ≤ n * scaledOne ∧
      2 ^ 52 ≤ roundQuotient (n * scaledOne) (d * 2 ^ (E + 1)) ∧
      roundQuotient (n * scaledOne) (d * 2 ^ (E + 1)) ≤ 2 ^ 53 := by
  have hshift : ∀ c, 2 ^ c * (d * 2 ^ (E + 1)) = d * 2 ^ (E + 1 + c) := fun c => by
    rw [Nat.pow_add 2 (E + 1), Nat.mul_left_comm, Nat.mul_comm (2 ^ c)]
  have hqlo : 2 ^ 52 * (d * 2 ^ (E + 1)) ≤ n * scaledOne := (hshift 52).trans_le hlo
  exact ⟨hqlo, roundQuotient_mem (Nat.mul_pos (Nat.pos_of_ne_zero hd) (Nat.two_pow_pos _)) hqlo
    (hhi.trans_eq (hshift 53).symm)⟩

/-- Among the multiples of the last place the rounded quotient is nearest by `roundQuotient_nearest`; a
number with a smaller exponent is farther away than the multiple 2^52, which lies between that number
and the quotient. -/
theorem readingDistance_roundQuotient {x : Binary64} {n d E : Nat} (hd : d ≠ 0)
    (hlo : 2 ^ 52 * (d * 2 ^ (E + 1)) ≤ n * scaledOne)
    (hx : scaledMagnitude x = roundQuotient (n * scaledOne) (d * 2 ^ (E + 1)) * 2 ^ (E + 1))
    (y : Binary64) :
    readingDistance x n d ≤ readingDistance y n d ∧
      (readingDistance x n d = readingDistance y n d → scaledMagnitude y = scaledMagnitude x ∨
        roundQuotient (n * scaledOne) (d * 2 ^ (E + 1)) % 2 = 0) := by
  have hnearest (a : Nat) := roundQuotient_nearest (n * scaledOne) (d * 2 ^ (E + 1)) a
    (Nat.mul_pos (Nat.pos_of_ne_zero hd) (Nat.two_pow_pos _))
  rw [readingDistance_of_multiple n d hx]
  obtain ⟨a, ha⟩ | hlt := scaledMagnitude_multiple_or_lt y E
  · rw [readingDistance_of_multiple n d ha, ha, hx]
    obtain ⟨hle, htie⟩ := hnearest a
    exact ⟨hle, fun heq => (htie heq).imp_left fun h => by rw [h]⟩
  · obtain ⟨hle, -⟩ := hnearest (2 ^ 52)
    have hbelow : scaledMagnitude y * d < 2 ^ 52 * (d * 2 ^ (E + 1)) := by
      rw [Nat.mul_comm d, ← Nat.mul_assoc]
      exact Nat.mul_lt_mul_of_pos_right hlt (Nat.pos_of_ne_zero hd)
    rw [readingDistance]
    generalize n * scaledOne = N at *
    omega

/-- In the range of normal numbers `nearest` is correctly rounded. -/
theorem nearest_nearestReading {n d e : Nat} (hn : n ≠ 0) (hd : d ≠ 0)
    (hmin : d * 2 ^ 53 ≤ n * scaledOne) (hmax : n < d * 2 ^ e) (he : e ≤ 1023) :
    NearestReading (nearest n d) false n d := by
  obtain ⟨E, hplace, hElo, hEhi⟩ := lastPlace_normal hn hd hmin
  have hE : E + 53 < e + 1075 := by
    rw [← Nat.pow_lt_pow_iff_right (a := 2) (by decide)]
    refine Nat.lt_of_mul_lt_mul_left (a := d) ?_
    calc d * 2 ^ (E + 53) ≤ n * scaledOne := hElo
      _ < d * 2 ^ e * scaledOne := Nat.mul_lt_mul_of_pos_right hmax scaledOne_pos
      _ = d * 2 ^ (e + 1075) := by rw [Nat.mul_assoc, two_pow_mul_scaledOne]
  obtain ⟨hbelow, hlo, hhi⟩ := roundQuotient_significand hd hElo hEhi
  obtain ⟨hfinite, hmag⟩ :=
    nearest_normal hn hplace (roundQuotient_lastPlace n d E) hlo hhi (by omega)
  have hmsb := nearest_msb n d
  refine ⟨hfinite, hmsb, fun y _ hy => ?_⟩
  obtain ⟨hle, htie⟩ := readingDistance_roundQuotient hd hbelow hmag y
  refine ⟨hle, fun heq => (htie heq).imp (eq_of_scaledMagnitude_eq hy hmsb) fun heven => ?_⟩
  exact getLsbD_zero_of_even hmsb hmag hlo hhi (by omega) heven

/-- The reading 0 is exact. -/
theorem zero_nearestReading (d : Nat) : NearestReading 0#64 false 0 d := by
  have hzero : readingDistance 0#64 0 d = 0 := by
    rw [readingDistance, show scaledMagnitude 0#64 = 0 by decide]
    simp
  exact ⟨by decide, by decide, fun y _ _ => ⟨hzero.trans_le (Nat.zero_le _), fun _ => .inr (by decide)⟩⟩

/-- A reading is 0 or lies in the range of normal numbers. -/
theorem unsignedMagnitude_nearestReading {n k : Nat} (hn : n ≤ 9999) (hk : k ≤ 3) :
    NearestReading (unsignedMagnitude n k) false n (10 ^ k) := by
  rw [unsignedMagnitude_eq_nearest hn hk]
  obtain rfl | hpos := Nat.eq_zero_or_pos n
  · exact zero_nearestReading _
  · have hlo : 0 < 10 ^ k := Nat.pow_pos (by decide)
    have hhi : 10 ^ k ≤ 10 ^ 3 := Nat.pow_le_pow_right (by decide) hk
    have hmin : 10 ^ k * 2 ^ 53 ≤ n * scaledOne :=
      calc 10 ^ k * 2 ^ 53 ≤ 2 ^ 63 := by omega
        _ ≤ scaledOne := two_pow_le_scaledOne (by decide)
        _ ≤ n * scaledOne := Nat.le_mul_of_pos_left _ hpos
    exact nearest_nearestReading hpos.ne' hlo.ne' hmin (e := 14) (by omega) (by decide)

/-- Negating keeps every distance, and `fneg` pairs the numbers of the two signs. -/
theorem NearestReading.fneg {m : Binary64} {n d : Nat} (h : NearestReading m false n d) :
    NearestReading (fneg m) true n d := by
  obtain ⟨hfinite, hmsb, hnearest⟩ := h
  have hdist : ∀ x, readingDistance (Machine.fneg x) n d = readingDistance x n d := fun x => by
    rw [readingDistance, scaledMagnitude_fneg, readingDistance]
  refine ⟨by rw [isFinite_fneg, hfinite], by rw [fneg_msb, hmsb]; rfl, fun y hy hymsb => ?_⟩
  obtain ⟨hle, htie⟩ := hnearest (Machine.fneg y) (by rw [isFinite_fneg, hy])
    (by rw [fneg_msb, hymsb]; rfl)
  rw [hdist] at hle htie
  rw [hdist, fneg_getLsbD m (by decide)]
  exact ⟨hle, fun heq => (htie heq).imp_left fun hym => by rw [← hym, fneg_fneg]⟩

theorem NearestReading.signed {m : Binary64} {n d : Nat} (h : NearestReading m false n d) (neg : Bool) :
    NearestReading (signedMagnitude neg m) neg n d := by
  cases neg with
  | false => exact h
  | true => exact h.fneg

/-- Settles O42: the statement is `NearestReading` written out. -/
theorem magnitudeIsTheNearestBinary64 : Obligations.MagnitudeIsTheNearestBinary64 :=
  fun _ _ hn hk => unsignedMagnitude_nearestReading hn hk

end Sys2Proof.Machine
end

section
/-! Family 41_decode, the operations: what DECODE answers on a frame of 14 bytes and which bytes decide
it, DESCRAMBLE followed by DECODE, and the magnitude of every response. -/

namespace Sys2Proof.Machine

/-! ### Failures (41_decode.md R72, R73, R84) -/

/-- The response word of a bare status is the status code. -/
theorem Response.toWord_ofStatus (st : Status) :
    (Response.ofStatus st).toWord = st.code.setWidth 213 := by
  cases st <;> decide

/-- Settles O22: no operation reads the data of a request with such a length. -/
theorem wrongLengthIsRejectedUnread : Obligations.WrongLengthIsRejectedUnread := by
  intro s i hlen
  refine ⟨Response.ofStatus .frameLengthMismatch, ?_, rfl, rfl, Response.toWord_ofStatus _⟩
  rw [exec_eq_respond, answerOf_wrongLength _ hlen]
  rfl

/-- DECODE of 14 bytes issues the response of the ten steps and changes nothing else. -/
theorem exec_decode_frame (s : State) (P : Frame) :
    exec (.decode 14 P) s = .next (s.respond (Response.ofDecode (decodeFrame s.config P))) := by
  rw [exec_eq_respond, answerOf, answerDecode_frame]

theorem exec_decode_error {s : State} {P : Frame} {st : Status}
    (h : decodeFrame s.config P = .error st) :
    exec (.decode 14 P) s = .next (s.respond (Response.ofStatus st)) := by
  rw [exec_decode_frame, h, Response.ofDecode]

theorem exec_decode_ok {s : State} {P : Frame} {m : Measurement} (h : decodeFrame s.config P = .ok m) :
    exec (.decode 14 P) s = .next (s.respond (Response.ofMeasurement m)) := by
  rw [exec_decode_frame, h, Response.ofDecode]

/-- Settles O26: the first step fails. -/
theorem zeroByteZeroIsAnEmptyFrame : Obligations.ZeroByteZeroIsAnEmptyFrame := fun s _ h0 =>
  ⟨_, exec_decode_error (decodeFrame_empty s.config h0), rfl, rfl, Response.toWord_ofStatus _⟩

/-- No step reports OK as its failure. -/
theorem decodeFrame_error_ne_ok {c : Config} {P : Frame} {st : Status}
    (h : decodeFrame c P = .error st) : st ≠ .ok := by
  obtain rfl | rfl | rfl | rfl := decodeFrame_error h <;> decide

/-- A failed DECODE is its status alone. -/
theorem answerDecode_failure {c : Config} {len : Nat} {P : Frame}
    (h : (answerDecode c len P).status ≠ .ok) : ∃ st, answerDecode c len P = Response.ofStatus st := by
  by_cases hlen : len = 14
  · subst hlen
    rw [answerDecode_frame] at h ⊢
    cases hd : decodeFrame c P with
    | error st => exact ⟨st, rfl⟩
    | ok m => simp [hd, Response.ofDecode] at h
  · exact ⟨_, answerDecode_length c P hlen⟩

/-- Settles O27: by `answerDecode_failure` the word is that of a bare status. -/
theorem failedDecodeCarriesOnlyItsStatus : Obligations.FailedDecodeCarriesOnlyItsStatus := by
  intro s len P
  refine ⟨answerDecode s.config len P, exec_eq_respond (.decode len P) s, fun hfail => ?_⟩
  obtain ⟨st, hst⟩ := answerDecode_failure hfail
  rw [hst, Response.toWord_ofStatus, Response.ofStatus_status, BitVec.toNat_setWidth,
    Nat.mod_eq_of_lt (st.code.isLt.trans (by decide))]

/-! ### Sign, digits and decimal point -/

/-- The sign is negative for the negative sentinel alone (41_decode.md R79, R80). -/
theorem signFlag_eq_some {o : SignOther} {b : Byte} {neg : Bool} (h : signFlag o b = some neg) :
    neg = decide (b = 0x2D#8) := by
  by_cases hn : b = 0x2D#8
  · subst hn
    exact Option.some.inj h.symm
  · by_cases hp : b = 0x2B#8
    · subst hp
      exact Option.some.inj (h.symm.trans (signFlag_positive o))
    · rw [signFlag_other hn hp] at h
      cases o with
      | unspecified => cases h
      | asPositive => simpa [hn] using h.symm

/-- There is a sign unless byte 0 is no sentinel and `SIGN_OTHER` is UNSPECIFIED. -/
theorem signFlag_of_specified {s : State} {P : Frame} (h : ¬ SignUnspecified s P) :
    ∃ neg, signFlag s.config.signOther P[0] = some neg := by
  by_cases hn : P[0] = 0x2D#8
  · exact ⟨true, hn ▸ signFlag_negative _⟩
  · by_cases hp : P[0] = 0x2B#8
    · exact ⟨false, hp ▸ signFlag_positive _⟩
    · rw [signFlag_other hn hp]
      cases ho : s.config.signOther with
      | unspecified => exact absurd ⟨by simp [hn, hp], ho⟩ h
      | asPositive => exact ⟨false, rfl⟩

/-- With a reading and a sign there is a record. -/
theorem decodeFrame_specified {s : State} {P : Frame} {r : Reading} (h0 : P[0] ≠ 0x00#8)
    (hr : readMagnitude P = .ok r) (hs : ¬ SignUnspecified s P) :
    decodeFrame s.config P = .ok (recordOf s.config P r (decide (P[0] = 0x2D#8))) := by
  obtain ⟨neg, hneg⟩ := signFlag_of_specified hs
  rw [decodeFrame_record h0 hr hneg, signFlag_eq_some hneg]

/-- An OK response is that of a record, whose sign is that of byte 0. -/
theorem ofDecode_ok {c : Config} {P : Frame}
    (h : (Response.ofDecode (decodeFrame c P)).status = .ok) :
    ∃ r, readMagnitude P = .ok r ∧
      decodeFrame c P = .ok (recordOf c P r (decide (P[0] = 0x2D#8))) := by
  obtain ⟨-, hd⟩ | ⟨st, -, -, hd⟩ | ⟨r, -, -, -, hd⟩ | ⟨r, neg, -, hr, hs, hd⟩ := decodeFrame_cases c P
  · rw [hd] at h
    cases h
  · rw [hd] at h
    exact absurd h (decodeFrame_error_ne_ok hd)
  · rw [hd] at h
    cases h
  · exact ⟨r, hr, signFlag_eq_some hs ▸ hd⟩

/-- Without overflow a reading is that of four digits and a selector. -/
theorem readMagnitude_ok_digits {P : Frame} {r : Reading} (ho : overflowFlag P = false)
    (h : readMagnitude P = .ok r) :
    ∃ n k, digitCount P = some n ∧ decimalPlaces P[6] = some k ∧
      r = ⟨false, n, k, unsignedMagnitude n k⟩ := by
  obtain ⟨hov, -⟩ | ⟨-, -, hr⟩ | ⟨n, -, -, -, hr⟩ | ⟨n, k, -, hn, hk, hr⟩ := readMagnitude_cases P
  · simp [ho] at hov
  · cases hr.symm.trans h
  · cases hr.symm.trans h
  · exact ⟨n, k, hn, hk, Except.ok.inj (h.symm.trans hr)⟩

theorem overflows_iff {P : Frame} : Overflows P ↔ overflowFlag P = true := by
  simp [overflowFlag_eq_true, Overflows, eq_comm (a := 0x3A#8)]

theorem not_overflows_iff {P : Frame} : ¬ Overflows P ↔ overflowFlag P = false := by
  rw [overflows_iff, Bool.not_eq_true]

/-- Four digit bytes give a count. -/
theorem digitCount_of_valid {P : Frame} (h : DigitsValid P) : ∃ n, digitCount P = some n := by
  refine Option.ne_none_iff_exists'.mp fun hnone => ?_
  simp only [digitCount_eq_none, digit_eq_none] at hnone
  obtain h' | h' | h' | h' := hnone <;> exact h' (h _ (by simp))

/-- Either sign sentinel passes the liveness gate and gives a sign, whatever `SIGN_OTHER` is. -/
theorem sentinel_specified (s : State) {P : Frame} (h : P[0] ∈ [0x2B#8, 0x2D#8]) :
    P[0] ≠ 0x00#8 ∧ ¬ SignUnspecified s P := by
  refine ⟨fun h0 => ?_, fun hs => hs.1 h⟩
  rw [h0] at h
  revert h
  decide

/-- Settles O28: the sentinel gives the infinite reading, and the sign goes to it as to any reading. -/
theorem overflowGivesInfinity : Obligations.OverflowGivesInfinity := by
  intro s P
  refine ⟨_, exec_decode_frame s P, fun ho hs => ?_, fun ho hok => ?_, fun ho => ?_⟩
  · obtain ⟨h0, hspec⟩ := sentinel_specified s hs
    rw [decodeFrame_specified h0 (readMagnitude_overflow (overflows_iff.mp ho)) hspec]
    rfl
  · obtain ⟨r, hr, hd⟩ := ofDecode_ok hok
    obtain rfl := Except.ok.inj ((readMagnitude_overflow (overflows_iff.mp ho)).symm.trans hr)
    rw [hd]
    refine ⟨rfl, rfl, rfl, fun hpos => ?_, fun hneg => ?_⟩
    · rw [decide_eq_false hpos]
      exact ⟨rfl, rfl⟩
    · rw [decide_eq_true hneg]
      exact ⟨rfl, show fneg posInf = 0xFFF0000000000000#64 by decide⟩
  · cases hd : decodeFrame s.config P with
    | error st => rfl
    | ok m =>
      obtain ⟨r, neg, hr, rfl⟩ := decodeFrame_ok hd
      obtain ⟨n, k, -, -, rfl⟩ := readMagnitude_ok_digits (not_overflows_iff.mp ho) hr
      rfl

/-- Settles O29: after four digits, the decimal-point step decides by `decimalPlaces`. -/
theorem pointByteSelectsTheDivisor : Obligations.PointByteSelectsTheDivisor := by
  intro s P h0 ho hdigits
  have hov := not_overflows_iff.mp ho
  obtain ⟨n, hn⟩ := digitCount_of_valid hdigits
  refine ⟨_, exec_decode_frame s P, fun hbad => ?_, fun hsel => ?_, fun hok => ?_⟩
  · rw [decodeFrame_badReading s.config h0
      (readMagnitude_badPoint hov hn (decimalPlaces_eq_none.mpr hbad))]
    exact ⟨rfl, Response.toWord_ofStatus _⟩
  · obtain ⟨k, hk⟩ : ∃ k, decimalPlaces P[6] = some k :=
      Option.ne_none_iff_exists'.mp fun hnone => decimalPlaces_eq_none.mp hnone hsel
    have hr := readMagnitude_digits hov hn hk
    refine ⟨?_, fun hs => ?_⟩
    · cases hs : signFlag s.config.signOther P[0] with
      | none =>
        rw [decodeFrame_badSign h0 hr hs]
        exact nofun
      | some neg =>
        rw [decodeFrame_record h0 hr hs]
        exact nofun
    · rw [decodeFrame_specified h0 hr (sentinel_specified s hs).2]
      rfl
  · obtain ⟨r, hr, hd⟩ := ofDecode_ok hok
    obtain ⟨n, k, -, hk, rfl⟩ := readMagnitude_ok_digits hov hr
    rw [hd]
    obtain ⟨hb, rfl⟩ | ⟨hb, rfl⟩ | ⟨hb, rfl⟩ | ⟨hb, rfl⟩ := decimalPlaces_eq_some.mp hk <;>
      simp [hb, recordOf, Response.ofDecode]

theorem digit_ofNat (d : Fin 10) : digit (BitVec.ofNat 8 (0x30 + d.val)) = some d.val := by
  revert d
  decide

theorem decimalPlaces_selector (k : Fin 4) :
    decimalPlaces #v[0x00#8, 0x34#8, 0x32#8, 0x31#8][k] = some k.val := by
  revert k
  decide

/-- The overflow sentinel is no digit. -/
theorem overflowFlag_of_digits {P : Frame} {n : Nat} (h : digitCount P = some n) :
    overflowFlag P = false := by
  obtain ⟨d1, d2, d3, d4, h1, h2, h3, h4, -⟩ := digitCount_eq_some.mp h
  have hne : ∀ {b : Byte} {d : Nat}, digit b = some d → b ≠ 0x3A#8 := by
    rintro b d hb rfl
    cases hb
  exact overflowFlag_eq_false.mpr ⟨hne h1, hne h2, hne h3, hne h4⟩

/-- The `count` field holds every reading of four digits. -/
theorem count_toNat {n : Nat} (h : n ≤ 9999) : (BitVec.ofNat 14 n).toNat = n := by
  rw [BitVec.toNat_ofNat, Nat.mod_eq_of_lt (by omega)]

/-- The `dpk` field holds the exponent of every divisor. -/
theorem dpk_toNat {k : Nat} (h : k ≤ 3) : (BitVec.ofNat 2 k).toNat = k := by
  rw [BitVec.toNat_ofNat, Nat.mod_eq_of_lt (by omega)]

/-- Settles O30: the reading of `readMagnitude_digits`, under the sign of byte 0. -/
theorem digitsGiveTheReading : Obligations.DigitsGiveTheReading := by
  intro s P d1 d2 d3 d4 k h1 h2 h3 h4 h6 h0 hs
  have hcount : digitCount P =
      some (1000 * d1.val + 100 * d2.val + 10 * d3.val + d4.val) :=
    digitCount_eq_some.mpr ⟨_, _, _, _, h1 ▸ digit_ofNat d1, h2 ▸ digit_ofNat d2,
      h3 ▸ digit_ofNat d3, h4 ▸ digit_ofNat d4, rfl⟩
  have hr := readMagnitude_digits (overflowFlag_of_digits hcount) hcount
    (h6 ▸ decimalPlaces_selector k)
  have hle := digitCount_le hcount
  generalize 1000 * d1.val + 100 * d2.val + 10 * d3.val + d4.val = n at *
  have hn := count_toNat hle
  have hk := dpk_toNat (Nat.le_of_lt_succ k.isLt)
  refine ⟨_, exec_decode_ok (decodeFrame_specified h0 hr hs), rfl, rfl, hn, hk, ?_⟩
  rw [Response.ofMeasurement_count, recordOf, hn]
  refine ⟨fun hpos => ?_, fun hneg => ?_, unsignedMagnitude_eq_nearest hle (Nat.le_of_lt_succ k.isLt)⟩
  · rw [decide_eq_false hpos]
    exact ⟨rfl, rfl⟩
  · rw [decide_eq_true hneg]
    exact ⟨rfl, rfl⟩

/-! ### The sign step (41_decode.md R79, R80) -/

/-- Steps 2 to 5 do not read byte 0. -/
@[simp] theorem readMagnitude_set_zero (P : Frame) (b : Byte) :
    readMagnitude (P.set 0 b) = readMagnitude P :=
  readMagnitude_congr (by simp) (by simp) (by simp) (by simp) (.inr (by simp))

/-- The steps after the sign do not read byte 0. -/
theorem recordOf_set_zero (c : Config) (P : Frame) (b : Byte) (r : Reading) (neg : Bool) :
    recordOf c (P.set 0 b) r neg = recordOf c P r neg := by
  simp [recordOf]

/-- A frame under a sign byte that is not zero, on a reading that fails and on one that does not. -/
theorem decodeFrame_signed_error (c : Config) {P : Frame} {st : Status} {b : Byte} (hb : b ≠ 0x00#8)
    (hr : readMagnitude P = .error st) : decodeFrame c (P.set 0 b) = .error st :=
  decodeFrame_badReading c (by simpa using hb) ((readMagnitude_set_zero P b).trans hr)

theorem decodeFrame_signed_ok {c : Config} {P : Frame} {r : Reading} {b : Byte} {neg : Bool}
    (hb : b ≠ 0x00#8) (hr : readMagnitude P = .ok r) (hs : signFlag c.signOther b = some neg) :
    decodeFrame c (P.set 0 b) = .ok (recordOf c P r neg) := by
  rw [← recordOf_set_zero c P b]
  exact decodeFrame_record (by simpa using hb) ((readMagnitude_set_zero P b).trans hr) (by simpa using hs)

/-- Settles O31: both sentinels get the same failure or the same reading, and the negative one `fneg`. -/
theorem negativeSignOnlyNegates : Obligations.NegativeSignOnlyNegates := by
  intro s P
  cases hr : readMagnitude P with
  | error st =>
    have hplus := decodeFrame_signed_error s.config (b := 0x2B#8) (by decide) hr
    have hminus := decodeFrame_signed_error s.config (b := 0x2D#8) (by decide) hr
    have hst : st ≠ .ok := decodeFrame_error_ne_ok hplus
    refine ⟨_, exec_decode_error hplus, fun hok => absurd hok hst, ?_⟩
    rw [Response.ofStatus_status, if_neg hst]
    exact exec_decode_error hminus
  | ok r =>
    obtain ⟨-, -, hmsb⟩ := readMagnitude_formed hr
    exact ⟨_, exec_decode_ok (decodeFrame_signed_ok (by decide) hr (signFlag_positive _)),
      fun _ => ⟨rfl, hmsb⟩,
      exec_decode_ok (decodeFrame_signed_ok (by decide) hr (signFlag_negative _))⟩

/-- Settles O32: such a byte 0 has the sign that `SIGN_OTHER` says, after the same steps 2 to 5. -/
theorem otherSignBytesFollowSignOther : Obligations.OtherSignBytesFollowSignOther := by
  intro s P hbyte
  obtain ⟨h0, hp, hn⟩ : P[0] ≠ 0x00#8 ∧ P[0] ≠ 0x2B#8 ∧ P[0] ≠ 0x2D#8 := by simpa using hbyte
  have hsign := signFlag_other (o := s.config.signOther) hn hp
  cases hr : readMagnitude P with
  | error st =>
    have hplus := decodeFrame_signed_error s.config (b := 0x2B#8) (by decide) hr
    have hP := exec_decode_error (decodeFrame_badReading s.config h0 hr)
    exact ⟨_, exec_decode_error hplus, fun _ => hP, fun _ _ => hP,
      fun _ hok => absurd hok (decodeFrame_error_ne_ok hplus)⟩
  | ok r =>
    refine ⟨_, exec_decode_ok (decodeFrame_signed_ok (by decide) hr (signFlag_positive _)),
      fun ho => ?_, fun _ hfail => absurd rfl hfail, fun ho _ => ?_⟩
    · rw [ho] at hsign
      exact exec_decode_ok (decodeFrame_record h0 hr (ho ▸ hsign))
    · rw [ho] at hsign
      exact ⟨_, exec_decode_error (decodeFrame_badSign h0 hr (ho ▸ hsign)), rfl, rfl,
        Response.toWord_ofStatus _⟩

/-! ### Scale, unit and auxiliary byte (41_decode.md R81 to R83) -/

/-- Frames with one byte 0 and one reading both fail with one status, or both have a record with one
reading and one sign. -/
theorem decodeFrame_same_reading (c : Config) {P Q : Frame} (h0 : P[0] = Q[0])
    (hr : readMagnitude P = readMagnitude Q) :
    (∃ st, st ≠ .ok ∧ decodeFrame c P = .error st ∧ decodeFrame c Q = .error st) ∨
    (∃ r neg, decodeFrame c P = .ok (recordOf c P r neg) ∧
      decodeFrame c Q = .ok (recordOf c Q r neg)) := by
  obtain ⟨hz, hd⟩ | ⟨st, hz, hst, hd⟩ | ⟨r, hz, hok, hs, hd⟩ | ⟨r, neg, hz, hok, hs, hd⟩ :=
    decodeFrame_cases c P
  · exact .inl ⟨.emptyFrame, nofun, hd, decodeFrame_empty c (h0 ▸ hz)⟩
  · exact .inl ⟨st, decodeFrame_error_ne_ok hd, hd, decodeFrame_badReading c (h0 ▸ hz) (hr ▸ hst)⟩
  · exact .inl ⟨.unspecifiedSign, nofun, hd, decodeFrame_badSign (h0 ▸ hz) (hr ▸ hok) (h0 ▸ hs)⟩
  · exact .inr ⟨r, neg, hd, decodeFrame_record (h0 ▸ hz) (hr ▸ hok) (h0 ▸ hs)⟩

/-- The bytes from 9 on decide neither the reading nor the sign. -/
theorem decodeFrame_set_after_eight (c : Config) (P : Frame) {i : Nat} (hi : 9 ≤ i) (hlt : i < 14)
    (b : Byte) :
    (∃ st, st ≠ .ok ∧ decodeFrame c P = .error st ∧ decodeFrame c (P.set i b) = .error st) ∨
    (∃ r neg, decodeFrame c P = .ok (recordOf c P r neg) ∧
      decodeFrame c (P.set i b) = .ok (recordOf c (P.set i b) r neg)) := by
  have hkeep : ∀ (j : Nat) (hj : j < 9), P[j] = (P.set i b)[j] := fun j hj =>
    (Vector.getElem_set_ne _ _ (by omega)).symm
  exact decodeFrame_same_reading c (hkeep 0 (by decide)) (readMagnitude_congr (hkeep 1 (by decide))
    (hkeep 2 (by decide)) (hkeep 3 (by decide)) (hkeep 4 (by decide)) (.inr (hkeep 6 (by decide))))

theorem highNibble_toNat (b : Byte) : (b.extractLsb' 4 4).toNat = b.toNat / 16 := by
  rw [BitVec.extractLsb'_toNat, Nat.shiftRight_eq_div_pow]
  omega

theorem scaleMatch_of_distinct {t : Tables} (ht : t.ScaleDistinct) {b : Byte} (k : ScaleKey)
    (h : b.toNat / 16 = (t.scaleNib.get k).toNat) : scaleMatch t b = some k := by
  have hnib : b.extractLsb' 4 4 = t.scaleNib.get k :=
    BitVec.eq_of_toNat_eq ((highNibble_toNat b).trans h)
  have hall : ∀ k : ScaleKey, k ∈ ScaleKey.all := fun k => by cases k <;> decide
  cases hm : scaleMatch t b with
  | none => exact absurd hnib (scaleMatch_none.mp hm k)
  | some k' =>
    rw [List.inj_on_of_nodup_map ht (hall k') (hall k) ((scaleMatch_some hm).symm.trans hnib)]

theorem unitMatch_of_distinct {t : Tables} (ht : t.UnitDistinct) {b : Byte} (u : MeterUnit)
    (h : b = t.unitByte.get u) : unitMatch t b = some u := by
  have hall : ∀ u : MeterUnit, u ∈ MeterUnit.all := fun u => by cases u <;> decide
  cases hm : unitMatch t b with
  | none => exact absurd h (unitMatch_none.mp hm u)
  | some u' =>
    rw [List.inj_on_of_nodup_map ht (hall u') (hall u) ((unitMatch_some hm).symm.trans h)]

/-- Settles O33: distinct nibbles leave one match, and a record reads byte 9 in these two fields. -/
theorem scaleNibbleSelectsTheExponent : Obligations.ScaleNibbleSelectsTheExponent := by
  intro s P ht
  refine ⟨_, exec_decode_frame s P, fun hok => ?_, fun b => ⟨_, exec_decode_frame s _, ?_⟩⟩
  · obtain ⟨r, -, hd⟩ := ofDecode_ok hok
    have hfields : ∀ m, scaleMatch s.config.tables P[9] = m →
        (Response.ofDecode (decodeFrame s.config P)).exp = exponentCode (scaleExponent m) ∧
        (Response.ofDecode (decodeFrame s.config P)).scaleDefault = scaleDefaultFlag m := by
      rintro m rfl
      rw [hd]
      exact ⟨rfl, rfl⟩
    refine ⟨fun h => hfields _ (scaleMatch_of_distinct ht .micro h),
      fun h => hfields _ (scaleMatch_of_distinct ht .milli h),
      fun h => hfields _ (scaleMatch_of_distinct ht .kilo h),
      fun h => hfields _ (scaleMatch_of_distinct ht .mega h), fun h => hfields none ?_⟩
    exact scaleMatch_none.mpr fun k hk => h k ((highNibble_toNat _).symm.trans (congrArg _ hk))
  · obtain ⟨st, -, hP, hQ⟩ | ⟨r, neg, hP, hQ⟩ :=
      decodeFrame_set_after_eight s.config P (i := 9) (by decide) (by decide) b
    · rw [hP, hQ]
    · rw [hP, hQ]
      simp [recordOf, Response.ofDecode, Response.ofMeasurement]

/-- Settles O34: distinct unit bytes leave one match, and a record reads byte 10 in this field. -/
theorem unitByteSelectsTheUnit : Obligations.UnitByteSelectsTheUnit := by
  intro s P ht
  refine ⟨_, exec_decode_frame s P, fun hok => ?_, fun b => ⟨_, exec_decode_frame s _, ?_⟩⟩
  · obtain ⟨r, -, hd⟩ := ofDecode_ok hok
    have hfield : ∀ m, unitMatch s.config.tables P[10] = m →
        (Response.ofDecode (decodeFrame s.config P)).unit = unitCode m := by
      rintro m rfl
      rw [hd]
      rfl
    have hunit (u : MeterUnit) (h : P[10] = s.config.tables.unitByte.get u) :=
      hfield _ (unitMatch_of_distinct ht u h)
    exact ⟨hunit .hFE, hunit .v, hunit .ohm, hunit .f, hunit .hz, hunit .c, hunit .a,
      fun h => hfield none (unitMatch_none.mpr h)⟩
  · obtain ⟨st, -, hP, hQ⟩ | ⟨r, neg, hP, hQ⟩ :=
      decodeFrame_set_after_eight s.config P (i := 10) (by decide) (by decide) b
    · rw [hP, hQ]
    · rw [hP, hQ]
      simp [recordOf, Response.ofDecode, Response.ofMeasurement]

/-- The signed and the unsigned value of a byte, with their ranges (00_scope.md R10). -/
theorem auxInteger_range (b : Byte) :
    (-128 ≤ auxInteger .sext8 b ∧ auxInteger .sext8 b ≤ 127) ∧
      (0 ≤ auxInteger .zext8 b ∧ auxInteger .zext8 b ≤ 255) := by
  have hlo := b.le_toInt
  have hhi := b.toInt_lt
  have hnat := b.isLt
  simp only [auxInteger]
  omega

/-- Settles O35: a record copies byte 11, and no other field of it reads that byte. -/
theorem auxiliaryByteIsCopiedAndIndependent : Obligations.AuxiliaryByteIsCopiedAndIndependent := by
  intro s P b
  have hagree : b.toNat ≤ 0x7F → auxInteger .sext8 b = auxInteger .zext8 b := fun h =>
    BitVec.toInt_eq_toNat_of_lt (by omega)
  obtain ⟨hsext, hzext⟩ := auxInteger_range P[11]
  obtain ⟨st, hst, hP, hQ⟩ | ⟨r, neg, hP, hQ⟩ :=
    decodeFrame_set_after_eight s.config P (i := 11) (by decide) (by decide) b
  · refine ⟨_, exec_decode_error hP, ?_, fun hok => absurd hok hst, hagree⟩
    rw [Response.ofStatus_status, if_neg hst]
    exact exec_decode_error hQ
  · have hQ' : recordOf s.config (P.set 11 b) r neg =
        { recordOf s.config P r neg with aux := b } := by
      simp [recordOf]
    refine ⟨_, exec_decode_ok hP, exec_decode_ok (hQ' ▸ hQ), fun _ => ⟨rfl, fun hext => ?_,
      fun hext => ?_⟩, hagree⟩
    · rw [State.auxValue, hext]
      exact ⟨rfl, hsext⟩
    · rw [State.auxValue, hext]
      exact ⟨rfl, hzext⟩

/-- Settles O36: frames alike in the bytes that are read have one failure or one record. -/
theorem unreadBytesDoNotMatter : Obligations.UnreadBytesDoNotMatter := by
  intro s P Q h0 hread
  suffices h : decodeFrame s.config P = decodeFrame s.config Q from
    ⟨_, exec_decode_frame s P, h ▸ exec_decode_frame s Q⟩
  obtain hz | ⟨h1, h2, h3, h4, h6, h9, h10, h11⟩ := hread
  · rw [decodeFrame_empty _ hz, decodeFrame_empty _ (h0 ▸ hz)]
  · have hscale : scaleMatch s.config.tables P[9] = scaleMatch s.config.tables Q[9] := by
      have hnib : P[9].extractLsb' 4 4 = Q[9].extractLsb' 4 4 :=
        BitVec.eq_of_toNat_eq (by rw [highNibble_toNat, highNibble_toNat, h9])
      simp only [scaleMatch, hnib]
    obtain ⟨st, -, hP, hQ⟩ | ⟨r, neg, hP, hQ⟩ := decodeFrame_same_reading s.config h0
      (readMagnitude_congr h1 h2 h3 h4 (h6.imp_left overflows_iff.mp))
    · rw [hP, hQ]
    · rw [hP, hQ, recordOf, recordOf, hscale, h10, h11]

/-! ### DESCRAMBLE_DECODE (41_decode.md R86) -/

/-- The combined operation issues the response of DECODE on the descrambled frame, with that frame. -/
theorem exec_descrambleDecode_frame (s : State) (R : Frame) :
    exec (.descrambleDecode 14 R) s = .next (s.respond
      ((Response.ofDecode (decodeFrame s.config (descrambleFrame s.config.tables R))).withPlain
        (descrambleFrame s.config.tables R))) := by
  rw [exec_eq_respond, answerOf, answerDescrambleDecode_frame]

/-- Settles O37: both sides run `decodeFrame` on the frame that DESCRAMBLE answers. -/
theorem combinedOperationIsTheComposition : Obligations.CombinedOperationIsTheComposition := fun s R =>
  ⟨_, _, exec_descramble_frame s R, exec_decode_frame s _, exec_descrambleDecode_frame s R⟩

/-- Settles O38: the composition of O37 on a frame that DESCRAMBLE takes back to `P` by R69. -/
theorem scrambledFrameIsReadAsItsPlaintext : Obligations.ScrambledFrameIsReadAsItsPlaintext := by
  intro s P ht
  refine ⟨_, exec_decode_frame s P, ?_⟩
  rw [exec_descrambleDecode_frame, descrambleFrame_scrambleFrame ht]
  rfl

/-! ### The magnitude of a response -/

/-- What O46 asks of a response: an OK one without overflow has the magnitude nearest to its reading. -/
def Response.MagnitudeNearest (r : Response) : Prop :=
  r.status = .ok → r.ovf = false → NearestReading r.mag r.neg r.count.toNat (10 ^ r.dpk.toNat)

/-- The zero fields of a bare status read as 0. -/
theorem ofStatus_magnitudeNearest (st : Status) : (Response.ofStatus st).MagnitudeNearest :=
  fun _ _ => zero_nearestReading _

theorem ofMeasurement_magnitudeNearest {c : Config} {P : Frame} {m : Measurement}
    (h : decodeFrame c P = .ok m) : (Response.ofMeasurement m).MagnitudeNearest := by
  intro _ hovf
  obtain ⟨r, neg, hr, rfl⟩ := decodeFrame_ok h
  have ho : overflowFlag P = false := by
    refine Bool.eq_false_iff.mpr fun ho => ?_
    obtain rfl := Except.ok.inj ((readMagnitude_overflow ho).symm.trans hr)
    cases hovf
  obtain ⟨n, k, hn, hk, rfl⟩ := readMagnitude_ok_digits ho hr
  have hcount := digitCount_le hn
  have hplaces : k ≤ 3 := by
    have := decimalPlaces_eq_some.mp hk
    omega
  have hnearest := (unsignedMagnitude_nearestReading hcount hplaces).signed neg
  simpa only [Response.ofMeasurement_mag, Response.ofMeasurement_neg, Response.ofMeasurement_count,
    Response.ofMeasurement_dpk, recordOf, count_toNat hcount, dpk_toNat hplaces] using hnearest

theorem ofDecode_magnitudeNearest (c : Config) (P : Frame) :
    (Response.ofDecode (decodeFrame c P)).MagnitudeNearest := by
  cases h : decodeFrame c P with
  | error st => exact ofStatus_magnitudeNearest st
  | ok m => exact ofMeasurement_magnitudeNearest h

/-- Keeping the plaintext frame does not touch the magnitude. -/
theorem Response.MagnitudeNearest.withPlain {r : Response} (h : r.MagnitudeNearest) (P : Frame) :
    (r.withPlain P).MagnitudeNearest := h

theorem answerOf_magnitudeNearest (c : Config) (i : Instr) :
    (answerOf c (.instr i)).MagnitudeNearest := by
  by_cases hlen : i.len = 14
  · cases i with
    | descramble len R =>
      obtain rfl : len = 14 := hlen
      exact (ofStatus_magnitudeNearest .ok).withPlain _
    | decode len P =>
      obtain rfl : len = 14 := hlen
      exact ofDecode_magnitudeNearest c P
    | descrambleDecode len R =>
      obtain rfl : len = 14 := hlen
      exact (ofDecode_magnitudeNearest c _).withPlain _
  · rw [answerOf_wrongLength c hlen]
    exact ofStatus_magnitudeNearest _

/-- Settles O46: `answerOf_magnitudeNearest` for the one response that the operation issues. -/
theorem responseMagnitudeIsTheNearestReading : Obligations.ResponseMagnitudeIsTheNearestReading :=
  fun s i => ⟨_, exec_eq_respond i s, answerOf_magnitudeNearest s.config i⟩

end Sys2Proof.Machine
end

section
/-! Family 60_exceptions: no step stops, and DECODE reports the first failure in the order of R91. -/

namespace Sys2Proof.Machine

/-! ### The order of failures (60_exceptions.md R91) -/

/-- A byte that is no digit leaves no count. -/
theorem digitCount_of_invalid {P : Frame} (h : ¬ DigitsValid P) : digitCount P = none := by
  simp only [digitCount_eq_none, digit_eq_none, ← not_and_or]
  simpa [DigitsValid] using h

/-- A selector byte gives decimal places. -/
theorem decimalPlaces_of_valid {P : Frame} (h : PointValid P) : ∃ k, decimalPlaces P[6] = some k :=
  Option.ne_none_iff_exists'.mp fun hnone => decimalPlaces_eq_none.mp hnone h

/-- An unspecified byte 0 gives no sign. -/
theorem signFlag_of_unspecified {s : State} {P : Frame} (h : SignUnspecified s P) :
    signFlag s.config.signOther P[0] = none := by
  obtain ⟨hbyte, hother⟩ := h
  obtain ⟨hp, hn⟩ : P[0] ≠ 0x2B#8 ∧ P[0] ≠ 0x2D#8 := by simpa using hbyte
  rw [signFlag_other hn hp, hother]

/-- The failure of the ten steps is the status of the response. -/
theorem ofDecode_status_of_error {c : Config} {P : Frame} {st : Status}
    (h : decodeFrame c P = .error st) : (Response.ofDecode (decodeFrame c P)).status = st := by
  rw [h, Response.ofDecode, Response.ofStatus_status]

/-- On a frame with a reading, only the sign step can still fail. -/
theorem ofDecode_status_of_reading (s : State) {P : Frame} {r : Reading} (h0 : P[0] ≠ 0x00#8)
    (hr : readMagnitude P = .ok r) :
    (SignUnspecified s P → (Response.ofDecode (decodeFrame s.config P)).status = .unspecifiedSign) ∧
    (¬ SignUnspecified s P → (Response.ofDecode (decodeFrame s.config P)).status = .ok) := by
  refine ⟨fun hs => ?_, fun hs => ?_⟩
  · exact ofDecode_status_of_error (decodeFrame_badSign h0 hr (signFlag_of_unspecified hs))
  · rw [decodeFrame_specified h0 hr hs, Response.ofDecode, Response.ofMeasurement_status]

/-- Settles O25: byte 0, then the reading (infinite on overflow, else of digits and a selector), then
the sign. -/
theorem decodeReportsTheFirstFailure : Obligations.DecodeReportsTheFirstFailure := by
  intro s P
  have hinfinite : Overflows P → readMagnitude P = .ok ⟨true, 0, 0, posInf⟩ :=
    fun ho => readMagnitude_overflow (overflows_iff.mp ho)
  have hdigits : ¬ Overflows P → DigitsValid P → PointValid P → ∃ r, readMagnitude P = .ok r := by
    intro ho hd hp
    obtain ⟨n, hn⟩ := digitCount_of_valid hd
    obtain ⟨k, hk⟩ := decimalPlaces_of_valid hp
    exact ⟨_, readMagnitude_digits (not_overflows_iff.mp ho) hn hk⟩
  refine ⟨_, exec_decode_frame s P, fun h0 => ?_,
    fun h0 ho => (ofDecode_status_of_reading s h0 (hinfinite ho)).1,
    fun h0 ho => (ofDecode_status_of_reading s h0 (hinfinite ho)).2,
    fun h0 ho hd => ?_, fun h0 ho hd hp => ?_, fun h0 ho hd hp => ?_, fun h0 ho hd hp => ?_⟩
  · exact ofDecode_status_of_error (decodeFrame_empty s.config h0)
  · have hr := readMagnitude_badDigit (not_overflows_iff.mp ho) (digitCount_of_invalid hd)
    exact ofDecode_status_of_error (decodeFrame_badReading s.config h0 hr)
  · obtain ⟨n, hn⟩ := digitCount_of_valid hd
    have hr := readMagnitude_badPoint (not_overflows_iff.mp ho) hn (decimalPlaces_eq_none.mpr hp)
    exact ofDecode_status_of_error (decodeFrame_badReading s.config h0 hr)
  · obtain ⟨r, hr⟩ := hdigits ho hd hp
    exact (ofDecode_status_of_reading s h0 hr).1
  · obtain ⟨r, hr⟩ := hdigits ho hd hp
    exact (ofDecode_status_of_reading s h0 hr).2

/-! ### Progress (60_exceptions.md R88) -/

/-- Settles O12: both branches of `step_cases` answer a next state. -/
theorem noStepStops : Obligations.NoStepStops := by
  intro s
  obtain ⟨-, hstep⟩ | ⟨w, rest, -, hstep⟩ := step_cases s
  · exact ⟨s, hstep⟩
  · exact ⟨_, hstep⟩

end Sys2Proof.Machine
end

section
/-! Family 70_reset_and_hazards: the first response after reset. -/

namespace Sys2Proof.Machine

/-- A request presented to the block after reset is the only one at the input (log entries 4, 8). -/
theorem reset_presentRequest_requests (w : ReqWord) :
    (State.reset.presentRequest w).requests = [w] := rfl

/-- Settles O18: `step_request` on both states, whose configurations are the same, so that `answerOf`
gives both the same response; after reset no response stands before it. -/
theorem firstResponseAfterReset : Obligations.FirstResponseAfterReset := by
  refine ⟨State.reset_responses, fun s w rest hconfig hs => ?_⟩
  refine ⟨answerOf State.reset.config (decode w), ?_, ?_⟩
  · rw [step_request hs, hconfig]
  · rw [step_request (reset_presentRequest_requests w), State.presentRequest_config,
      State.presentRequest_responses, State.reset_responses, List.nil_append]

end Sys2Proof.Machine
end

section
/-! Test vectors of spec/95_test_vectors.md under its TEST KEY, for every block that holds that key. -/

namespace Sys2Proof.Machine

/-! ### Descrambling under a key -/

/-- Descrambling reads `PERM` and `OFF` alone of the tables (40_descramble.md R63, R64). -/
theorem descrambleFrame_congr {t t' : Tables} (hperm : t.perm = t'.perm) (hoff : t.off = t'.off)
    (R : Frame) : descrambleFrame t R = descrambleFrame t' R := by
  simp only [descrambleFrame, plainByte, offsetByte, permutedByte, hperm, hoff]

theorem exec_descrambleDecode_error {s : State} {R P : Frame} {st : Status}
    (hplain : descrambleFrame s.config.tables R = P) (h : decodeFrame s.config P = .error st) :
    exec (.descrambleDecode 14 R) s = .next (s.respond ((Response.ofStatus st).withPlain P)) := by
  rw [exec_descrambleDecode_frame, hplain, h, Response.ofDecode]

theorem exec_descrambleDecode_ok {s : State} {R P : Frame} {m : Measurement}
    (hplain : descrambleFrame s.config.tables R = P) (h : decodeFrame s.config P = .ok m) :
    exec (.descrambleDecode 14 R) s = .next (s.respond ((Response.ofMeasurement m).withPlain P)) := by
  rw [exec_descrambleDecode_frame, hplain, h, Response.ofDecode]

/-! ### A reading in volts without a prefix -/

/-- No table of a device gives scale nibble 0 a meaning, and every table gives 0x80 to V (00_scope.md
R8, R9), so that a frame with these bytes has one record, whatever the tables. -/
theorem recordOf_volts {c : Config} (hc : c.WellFormed) {P : Frame} (h9 : P[9] = 0x00#8)
    (h10 : P[10] = 0x80#8) (r : Reading) (neg : Bool) :
    recordOf c P r neg =
      ⟨neg, r.ovf, r.count, r.dpk, signedMagnitude neg r.mag, 0, some .v, true, P[11]⟩ := by
  obtain ⟨-, -, -, -, hnonzero, hunits⟩ := hc
  have hscale : scaleMatch c.tables P[9] = none := by
    refine scaleMatch_none.mpr fun k hk => hnonzero ?_
    rw [show 0#4 = c.tables.scaleNib.get k by rw [← hk, h9]; rfl]
    exact List.mem_map_of_mem (by cases k <;> decide)
  have hunit : unitMatch c.tables P[10] = some .v := unitMatch_of_distinct hunits .v h10
  rw [recordOf, hscale, hunit]
  rfl

/-- The record of a frame with a reading, a sign, scale nibble 0 and the unit byte of V. -/
theorem decodeFrame_volts {c : Config} (hc : c.WellFormed) {P : Frame} {n k : Nat} {mag : Binary64}
    {neg : Bool} (h0 : P[0] ≠ 0x00#8) (hn : digitCount P = some n) (hk : decimalPlaces P[6] = some k)
    (hmag : unsignedMagnitude n k = mag) (hs : signFlag c.signOther P[0] = some neg)
    (h9 : P[9] = 0x00#8) (h10 : P[10] = 0x80#8) :
    decodeFrame c P = .ok ⟨neg, false, n, k, signedMagnitude neg mag, 0, some .v, true, P[11]⟩ := by
  rw [decodeFrame_record h0 (readMagnitude_digits (overflowFlag_of_digits hn) hn hk) hs,
    recordOf_volts hc h9 h10, hmag]

/-! ### The vectors (95_test_vectors.md section 4) -/

/-- 1234.0, the magnitude of DD-1. -/
theorem unsignedMagnitude_1234_0 : unsignedMagnitude 1234 0 = 0x4093480000000000#64 := by
  rw [unsignedMagnitude_eq_nearest (by decide) (by decide)]
  decide

/-- 0.007, the magnitude of DD-4 before the sign step. -/
theorem unsignedMagnitude_7_3 : unsignedMagnitude 7 3 = 0x3F7CAC083126E979#64 := by
  rw [unsignedMagnitude_eq_nearest (by decide) (by decide)]
  decide

/-- Settles O40: the TEST KEY is that of `Tables.existence`, which gives each plaintext by evaluation.
DD-1 and DD-4 are readings in volts, and DD-6 has a byte 1 that is no digit. -/
theorem testKeyVectors : Obligations.TestKeyVectors := by
  intro s hperm hoff hwf
  have hkey : ∀ R, descrambleFrame s.config.tables R = descrambleFrame Tables.existence R :=
    descrambleFrame_congr hperm hoff
  have hDD1 := decodeFrame_volts hwf
    (P := #v[0x2B, 0x31, 0x32, 0x33, 0x34, 0x00, 0x00, 0x00, 0x00, 0x00, 0x80, 0x00, 0x00, 0x00])
    (by decide) rfl rfl unsignedMagnitude_1234_0 (signFlag_positive _) rfl rfl
  have hDD4 := decodeFrame_volts hwf
    (P := #v[0x2D, 0x30, 0x30, 0x30, 0x37, 0x00, 0x31, 0x00, 0x00, 0x00, 0x80, 0xFF, 0x00, 0x00])
    (by decide) rfl rfl unsignedMagnitude_7_3 (signFlag_negative _) rfl rfl
  have hDD6 : decodeFrame s.config
      #v[0xA0, 0x68, 0xE4, 0x1C, 0x92, 0x5A, 0xD6, 0x3E, 0xB1, 0x79, 0xF5, 0x03, 0x8B, 0x47] =
        .error .invalidDigit :=
    decodeFrame_badReading _ (by decide) (readMagnitude_badDigit (by decide) (by decide))
  refine ⟨_, _, _, _, exec_descramble_frame s _, ?_,
    exec_descrambleDecode_ok ((hkey _).trans (by decide)) hDD1, ?_,
    exec_descrambleDecode_ok ((hkey _).trans (by decide)) hDD4, ?_,
    exec_descrambleDecode_error ((hkey _).trans (by decide)) hDD6, rfl, rfl⟩
  · rw [Response.withPlain_plain, hkey]
    decide
  · decide
  · decide

end Sys2Proof.Machine
end
